-- ==== Sys2Proof/Word.lean ====
section
/-! DEFINITION. The words of the CBC-mode chainer: bytes, byte sequences, 16-bit channel words (spec/00_scope.md R9,
spec/20_memory.md R62). -/

namespace Sys2Proof

/-- A byte, an unsigned 8-bit value (R9). -/
abbrev Byte := BitVec 8

/-- A command or response word, moved whole over a 16-bit channel (R62, R90). -/
abbrev Word := BitVec 16

/-- A finite sequence of bytes, possibly empty; index 0 is the first byte (R9, R61). -/
abbrev Bytes := List Byte

end Sys2Proof
end

