-- ==== Sys2Proof/Syntax.lean ====
section
/-! DEFINITION. The nine commands of the host (spec/30_encoding.md R93). -/

namespace Sys2Proof

/-- One constructor per row of `spec/opcode_table.json`. An operand is the field IMM as it stands (R92). -/
inductive Instr where
  /-- NOP (R200). -/
  | nop
  /-- KEYB byte (R120). -/
  | keyb (imm : Byte)
  /-- IVB byte (R121). -/
  | ivb (imm : Byte)
  /-- INIT (R122). -/
  | init
  /-- PTB byte (R161). -/
  | ptb (imm : Byte)
  /-- ENC (R162). -/
  | enc
  /-- RDB (R170). -/
  | rdb
  /-- RDS selector (R201). -/
  | rds (sel : Byte)
  /-- CLR mask (R202). -/
  | clr (mask : Byte)
  deriving DecidableEq, Repr

end Sys2Proof
end

