-- ==== Sys2Proof/WellFormed.lean ====
section
/-! DEFINITION. Which commands have a legal word: the IMM conditions of spec/30_encoding.md R92 and R93. -/

namespace Sys2Proof

/-- RDS needs a selector of at most 2 (R94 item 4); CLR needs mask bits [7:6] zero (R94 item 5); every other operand is
legal at every value (R92). -/
def Instr.wellFormed : Instr → Bool
  | .nop => true
  | .keyb _ => true
  | .ivb _ => true
  | .init => true
  | .ptb _ => true
  | .enc => true
  | .rdb => true
  | .rds sel => decide (sel.toNat ≤ 2)
  | .clr mask => mask.extractLsb' 6 2 == 0#2

/-- `wellFormed` as a proposition that `decide` runs on. -/
abbrev Instr.WellFormed (i : Instr) : Prop := i.wellFormed = true

end Sys2Proof
end

