-- ==== Sys2Proof/Decode.lean ====
section
/-! DEFINITION. The decoder of the 65536 command words, then the encoder and the opcode table as the spec prints it
(spec/30_encoding.md R91 to R94, spec/60_exceptions.md R224). -/

namespace Sys2Proof

/-- Why a word is illegal, by the checks 1 to 5 of R224. Each is IllegalCommandError (R223). -/
inductive DecodeError where
  /-- Check 1: RSV, bits [11:8], is not zero. -/
  | rsvNonZero
  /-- Check 2: OP is `0x9` to `0xF`. -/
  | opReserved
  /-- Check 3: NOP, INIT, ENC or RDB with IMM not zero. -/
  | immNonZero
  /-- Check 4: RDS with a selector of 3 or more. -/
  | selectorReserved
  /-- Check 5: CLR with mask bit 7 or 6 set. -/
  | maskReserved
  deriving DecidableEq, Repr

/-- OP, bits [15:12] (R91). -/
def opField (w : Word) : BitVec 4 := w.extractLsb' 12 4

/-- RSV, bits [11:8] (R91). -/
def rsvField (w : Word) : BitVec 4 := w.extractLsb' 8 4

/-- IMM, bits [7:0] (R91). -/
def immField (w : Word) : Byte := w.extractLsb' 0 8

/-- A command without an operand: IMM must be zero (R92). -/
def decodeNoOperand (i : Instr) (imm : Byte) : Except DecodeError Instr :=
  if imm = 0 then .ok i else .error .immNonZero

/-- The rows of R93 by OP, with their IMM conditions. -/
def decodeOp (op : BitVec 4) (imm : Byte) : Except DecodeError Instr :=
  match op.toNat with
  | 0 => decodeNoOperand .nop imm
  | 1 => .ok (.keyb imm)
  | 2 => .ok (.ivb imm)
  | 3 => decodeNoOperand .init imm
  | 4 => .ok (.ptb imm)
  | 5 => decodeNoOperand .enc imm
  | 6 => decodeNoOperand .rdb imm
  | 7 => if imm.toNat ≤ 2 then .ok (.rds imm) else .error .selectorReserved
  | 8 => if imm.extractLsb' 6 2 = 0 then .ok (.clr imm) else .error .maskReserved
  | _ => .error .opReserved

/-- The decoder: total on the 65536 words, each either one of the nine commands or illegal by name (R94). -/
def decode (w : Word) : Except DecodeError Instr :=
  if rsvField w = 0 then decodeOp (opField w) (immField w) else .error .rsvNonZero

/-- The word of the low `nbits` bits of `w`, as the opcode table numbers them; bits above `nbits` are zero. -/
def tableWord (nbits w : Nat) : Nat := w % 2 ^ nbits

/-- The instruction the decoder reads from a word of the opcode table. A command is one 16-bit word moved whole (R62, R90),
so no byte order enters; a value that does not fit 16 bits is no command. -/
def decodeTableWord (nbits w : Nat) : Option Instr :=
  if tableWord nbits w < 2 ^ 16 then
    match decode (BitVec.ofNat 16 (tableWord nbits w)) with
    | .ok i => some i
    | .error _ => none
  else none

/-- The operation code of a command (R93, column OP). -/
def Instr.op : Instr → BitVec 4
  | .nop => 0x0
  | .keyb _ => 0x1
  | .ivb _ => 0x2
  | .init => 0x3
  | .ptb _ => 0x4
  | .enc => 0x5
  | .rdb => 0x6
  | .rds _ => 0x7
  | .clr _ => 0x8

/-- The field IMM of a command's word: its operand, or zero (R92). -/
def Instr.imm : Instr → Byte
  | .nop => 0
  | .keyb imm => imm
  | .ivb imm => imm
  | .init => 0
  | .ptb imm => imm
  | .enc => 0
  | .rdb => 0
  | .rds sel => sel
  | .clr mask => mask

/-- The encoder: `word = (OP << 12) | (RSV << 8) | IMM` with RSV zero (R91). -/
def encode (i : Instr) : Word := i.op ++ (0#4 ++ i.imm : BitVec 12)

/-- A row of the table of R93. -/
structure TableRow where
  mnemonic : String
  matched : Word
  mask : Word
  deriving DecidableEq, Repr

/-- The table of R93, columns mnemonic, match and mask. RDS has the further condition `IMM <= 0x02`, see `rowAccepts`. -/
def opcodeTable : List TableRow :=
  [⟨"NOP", 0x0000, 0xFFFF⟩, ⟨"KEYB", 0x1000, 0xFF00⟩, ⟨"IVB", 0x2000, 0xFF00⟩,
   ⟨"INIT", 0x3000, 0xFFFF⟩, ⟨"PTB", 0x4000, 0xFF00⟩, ⟨"ENC", 0x5000, 0xFFFF⟩,
   ⟨"RDB", 0x6000, 0xFFFF⟩, ⟨"RDS", 0x7000, 0xFF00⟩, ⟨"CLR", 0x8000, 0xFFC0⟩]

/-- `(w & mask) == match`, and the IMM condition of the row RDS (R93). -/
def rowAccepts (r : TableRow) (w : Word) : Bool :=
  (w &&& r.mask == r.matched) && (r.mnemonic != "RDS" || decide ((immField w).toNat ≤ 2))

/-- The mnemonic of R93. -/
def Instr.mnemonic : Instr → String
  | .nop => "NOP"
  | .keyb _ => "KEYB"
  | .ivb _ => "IVB"
  | .init => "INIT"
  | .ptb _ => "PTB"
  | .enc => "ENC"
  | .rdb => "RDB"
  | .rds _ => "RDS"
  | .clr _ => "CLR"

end Sys2Proof
end

