-- ==== Sys2Proof/Config.lean ====
section
/-! DEFINITION. What an implementation fixes: the block-cipher primitive `E` and the buffer capacities
(spec/00_scope.md R8, spec/92_eei_decisions.md D7 and D29). -/

namespace Sys2Proof

/-- The two failures a primitive can answer with (spec/30_encoding.md R98). No other code can be written
(spec/93_implementation_defined.md U6). -/
inductive PrimError where
  /-- Code 1, InvalidKeyError: the primitive rejects the key. -/
  | invalidKey
  /-- Code 2, InvalidBlockSizeError: the primitive rejects a block of the wrong size. -/
  | invalidBlockSize
  deriving DecidableEq, Repr

/-- An answer on the primitive channel (R97): `Ok(c)`, of whatever length, or `Fail(code)`. -/
inductive Answer where
  | ok (c : Bytes)
  | fail (e : PrimError)
  deriving DecidableEq, Repr, Inhabited

/-- The type of the parameter `E` of R8: a total deterministic function of key and block. -/
abbrev Primitive := Bytes → Bytes → Answer

/-- The primitive this machine is attached to. OPEN in the spec (R8, D29), so it has no body: whatever is proved of
`step` holds for every primitive. Log 4. -/
opaque Config.encryptBlock : Primitive

/-- The capacities KEY_MAX and MSG_MAX of R8, `none` for unbounded. They are data of the state, which no step changes,
so that claims over all states quantify over them. DESIGN CHOICE, log 3. -/
structure Params where
  /-- KEY_MAX, the capacity of KEYS in bytes. -/
  keyMax : Option Nat
  /-- MSG_MAX, the capacity of MSG in bytes. -/
  msgMax : Option Nat
  deriving DecidableEq, Repr

/-- The default of R8: both capacities unbounded. -/
def Params.unbounded : Params := ⟨none, none⟩

end Sys2Proof
end

