-- ==== Sys2Proof/Machine/State.lean ====
section
/-! DEFINITION. The chainer's state: the fifteen stored pieces of spec/10_state.md R20, and the model's own fields for the
host, the primitive's speed, the capacities and the record of the channels. Plain data. -/

namespace Sys2Proof.Machine

/-- STATE, the block state machine's state (R32). The codes 5 to 7 are never taken and cannot be written (RES1). -/
inductive Phase where
  /-- 0, UNCONF: no encryptor exists. -/
  | unconf
  /-- 1, READY: an encryptor exists and no operation is in progress. -/
  | ready
  /-- 2, PAD: U_PAD is the next micro-step. -/
  | pad
  /-- 3, XOR: U_XOR is the next micro-step, for block IDX. -/
  | xor
  /-- 4, CIPHER: a request is outstanding at the primitive. -/
  | cipher
  deriving DecidableEq, Repr

/-- The cause codes of spec/60_exceptions.md R220. The codes 6 to 15 are never produced and cannot be written (RES2). -/
inductive Cause where
  /-- 0: no fault. -/
  | none
  /-- 1, InvalidKeyError (R221). -/
  | invalidKey
  /-- 2, InvalidBlockSizeError (R222). -/
  | invalidBlockSize
  /-- 3, IllegalCommandError (R223). -/
  | illegalCommand
  /-- 4, NotConfiguredError (R225). -/
  | notConfigured
  /-- 5, CapacityError (R227). -/
  | capacity
  deriving DecidableEq, Repr

/-- A request on the primitive channel (spec/30_encoding.md R97). -/
structure Request where
  key : Bytes
  block : Bytes
  deriving DecidableEq, Repr

/-- A move of the host (spec/20_memory.md R70, spec/70_reset_and_hazards.md R266). Log 1. -/
inductive HostMove where
  /-- Offer a command word; a busy chainer holds it. -/
  | send (w : Word)
  /-- Send nothing for one step. -/
  | idle
  /-- Assert reset. -/
  | reset
  deriving DecidableEq, Repr

/-- How long the primitive lets a request wait (R254, R258). Log 5. -/
inductive Delay where
  /-- It answers after `n` further steps. -/
  | after (n : Nat)
  /-- It never answers. -/
  | never
  deriving DecidableEq, Repr

/-- What passes over the three channels of R70, and the reset input: the observables of R265. Log 2. -/
inductive Event where
  /-- A command word accepted. -/
  | command (w : Word)
  /-- A response word sent. -/
  | response (w : Word)
  /-- A request sent to the primitive. -/
  | request (r : Request)
  /-- An answer received from the primitive. -/
  | answer (a : Answer)
  /-- Reset asserted. -/
  | reset
  deriving DecidableEq, Repr

/-- The state of one chainer: the fifteen pieces of R20, then the model's own four fields. -/
structure State where
  /-- KEY (R22). -/
  key : Bytes
  /-- IV (R23). -/
  iv : Bytes
  /-- BSZ, the block size (R24). -/
  bsz : BitVec 8
  /-- KEYS, the key staging buffer (R25). -/
  keys : Bytes
  /-- IVS, the IV staging buffer (R26). -/
  ivs : Bytes
  /-- MSG, the plaintext staging buffer (R27). -/
  msg : Bytes
  /-- PBUF, the padded buffer (R28). -/
  pbuf : Bytes
  /-- IDX, the index of the block being processed (R31). -/
  idx : Nat
  /-- NBLK, the number of blocks (R31). -/
  nblk : Nat
  /-- PREV, the previous-block state (R36). -/
  prev : Option Bytes
  /-- MIX, the mixed block (R37). -/
  mix : Option Bytes
  /-- REQ, the outstanding request (R38). -/
  req : Option Request
  /-- OUT, the ciphertext buffer (R29). -/
  out : Bytes
  /-- STATE (R32). -/
  phase : Phase
  /-- CAUSE (R33). -/
  cause : Cause
  /-- The model's own: the capacities, which no step changes (R8). Log 3. -/
  params : Params
  /-- The model's own: the host's moves still to come, the next first. Log 1. -/
  host : List HostMove
  /-- The model's own: the delays of the coming requests, the next first; past its end every request is answered at the
  next step. Log 5. -/
  delays : List Delay
  /-- The model's own: everything that passed over the channels, the oldest first. Log 2. -/
  trace : List Event
  deriving DecidableEq, Repr

/-- Where the spec gives a step no value. Every one of these is SAFE: the model stops, and `WellKept` of Sys2Proof/Safety.lean,
which holds at reset and which every step keeps, excludes it. None is a fault of the spec's taxonomy (R220), whose faults
are next states. Log 6. -/
inductive Fault where
  /-- Raised by INIT on more than 255 staged IV bytes: BSZ has 8 bits and R26 bounds IVS. Safe. -/
  | ivTooLong
  /-- Raised by U_PAD with BSZ = 0: `pad` is not defined for block size 0 (R140). Safe. -/
  | padUndefined
  /-- Raised by U_XOR with PREV = `none`: no rule reads a register that holds `none` (R10). Safe. -/
  | noPreviousBlock
  /-- Raised by U_XOR where block IDX is not inside PBUF: `slice` is not defined there (R9, R63). Safe. -/
  | blockOutOfRange
  /-- Raised in STATE = CIPHER with REQ = `none`: there is no request to answer (R38). Safe. -/
  | noRequest
  deriving DecidableEq, Repr

/-- The one refusal the host's interface asks for. Nothing raises it: every command has its meaning. -/
inductive Refusal where
  /-- Raised by nothing in this model (an instruction with no meaning would be refused so). Safe. -/
  | notModelled (mnemonic : String)
  deriving DecidableEq, Repr

/-- The machine right after reset: R41 for the fifteen pieces. The model's own fields: the default capacities (R8, log 3), no
host move pending (DESIGN CHOICE, log 1), a primitive that answers at the next step (DESIGN CHOICE, log 5), an empty record
(DESIGN CHOICE, log 2). -/
def State.reset : State :=
  { key := [], iv := [], bsz := 0, keys := [], ivs := [], msg := [], pbuf := [], idx := 0, nblk := 0,
    prev := none, mix := none, req := none, out := [], phase := .unconf, cause := .none,
    params := Params.unbounded, host := [], delays := [], trace := [] }

end Sys2Proof.Machine
end

