-- ==== Sys2Proof/Machine/Flags.lean ====
section
/-! DEFINITION. Codes, flags, STATUS and the response word (spec/10_state.md R32 to R35, spec/30_encoding.md R95,
spec/60_exceptions.md R220). -/

namespace Sys2Proof.Machine

/-- The 3-bit code of STATE (R32). -/
def Phase.code : Phase → BitVec 3
  | .unconf => 0
  | .ready => 1
  | .pad => 2
  | .xor => 3
  | .cipher => 4

/-- The column `busy` of R32: an operation is in progress. -/
def Phase.busy : Phase → Bool
  | .unconf => false
  | .ready => false
  | .pad => true
  | .xor => true
  | .cipher => true

/-- The 4-bit cause code (R220). -/
def Cause.code : Cause → BitVec 4
  | .none => 0
  | .invalidKey => 1
  | .invalidBlockSize => 2
  | .illegalCommand => 3
  | .notConfigured => 4
  | .capacity => 5

/-- A primitive's failure as a cause, passed on unchanged (R98, R164). -/
def primCause : PrimError → Cause
  | .invalidKey => .invalidKey
  | .invalidBlockSize => .invalidBlockSize

/-- OUTV: 1 when OUT is not empty (R35). -/
def outv (s : State) : Bool := decide (0 < s.out.length)

/-- ERR: 1 when CAUSE is not 0 (R35). -/
def err (s : State) : Bool := decide (s.cause ≠ .none)

/-- STATUS: bits [7:5] zero, ERR, OUTV, STATE (R34). -/
def status (s : State) : Byte :=
  0#3 ++ (BitVec.ofBool (err s) ++ (BitVec.ofBool (outv s) ++ s.phase.code : BitVec 4) : BitVec 5)

/-- Format S: ERRF 15, EMPTY 14, zero 13:12, CAUSE 11:8, DATA 7:0 (R95). -/
def responseWord (errf empty : Bool) (cause : Cause) (data : Byte) : Word :=
  BitVec.ofBool errf ++ (BitVec.ofBool empty ++ (0#2 ++ (cause.code ++ data : BitVec 12) : BitVec 14) : BitVec 15)

end Sys2Proof.Machine
end

