-- ==== Sys2Proof/Machine/Ops.lean ====
section
/-! DEFINITION. The shared operations: the buffers (spec/00_scope.md R10, spec/20_memory.md R64, R67), the response channel
(R70, R95), taking a fault (R226) and the two ends of an operation (R166, R167), reset (R250, R252). -/

namespace Sys2Proof.Machine

/-! ## Buffers -/

/-- `slice(s, off, n)` of R9. Meant for `off + n <= len(s)`; a reader tests that first. -/
def slice (s : Bytes) (off n : Nat) : Bytes := (s.drop off).take n

/-- `MemRead(B, off, n)` of R10: no value outside the buffer (R63). -/
def memRead (buf : Bytes) (off n : Nat) : Option Bytes :=
  if off + n ≤ buf.length then some (slice buf off n) else none

/-- Whether a buffer of capacity `cap` (`none`: unbounded) is full (R67, R227). -/
def full (cap : Option Nat) (buf : Bytes) : Bool :=
  match cap with
  | none => false
  | some m => decide (m ≤ buf.length)

/-- Append one byte; no result when the buffer is full (R64, R67). -/
def appendByte (cap : Option Nat) (buf : Bytes) (b : Byte) : Option Bytes :=
  if full cap buf then none else some (buf ++ [b])

/-- The capacity of IVS (R26, R121). -/
def ivsMax : Nat := 255

/-- Whether a buffer is within its capacity (R40 item 4). -/
def fits (cap : Option Nat) (buf : Bytes) : Bool :=
  match cap with
  | none => true
  | some m => decide (buf.length ≤ m)

/-- The form of the buffers: each within its capacity (R40 item 4, R67). The chainer has no addressed memory (R60); a buffer
is a list of bytes, so equal contents are equal data. -/
def Memory.wf (s : State) : Bool :=
  fits s.params.keyMax s.keys && fits (some ivsMax) s.ivs && fits s.params.msgMax s.msg

/-! ## Channels -/

/-- An event passes over a channel. -/
def State.record (s : State) (e : Event) : State := { s with trace := s.trace ++ [e] }

/-- `respond(ERRF, EMPTY, CAUSE, DATA)` of R10. -/
def respond (errf empty : Bool) (cause : Cause) (data : Byte) (s : State) : State :=
  s.record (.response (responseWord errf empty cause data))

/-- `respond(0, 0, 0, 0)`: success without data. -/
def respondDone (s : State) : State := respond false false .none 0#8 s

/-! ## Faults and the ends of an operation -/

/-- A command fault: CAUSE is written and the fault response sent, nothing else (R226). There is no return from it (R229). -/
def commandFault (c : Cause) (s : State) : State :=
  respond true false c 0#8 { s with cause := c }

/-- The registers both ends of an operation put back: hidden state idle, STATE READY (R166, R167). -/
def idleHidden (s : State) : State :=
  { s with pbuf := [], prev := none, mix := none, idx := 0, nblk := 0, req := none, phase := .ready }

/-- `end_ok`, R166. -/
def endOk (s : State) : State := respondDone (idleHidden s)

/-- `end_fail(code)`, R167. -/
def endFail (e : PrimError) (s : State) : State :=
  respond true false (primCause e) 0#8 { idleHidden s with out := [], cause := primCause e }

/-! ## Reset -/

/-- What a reset leaves of the primitive's delays: that of a withdrawn request goes with it (R252, log 5). -/
def delaysAfterReset (s : State) : List Delay :=
  match s.phase with
  | .cipher => s.delays.tail
  | .unconf | .ready | .pad | .xor => s.delays

/-- The reset step: every piece of state takes its value of R41 and no response is sent (R250, R252). The model's own fields
stay: the capacities, the host's moves, the record (log 2, log 3). -/
def applyReset (s : State) : State :=
  { State.reset with params := s.params, host := s.host, delays := delaysAfterReset s,
                     trace := s.trace ++ [.reset] }

end Sys2Proof.Machine
end

