-- ==== Sys2Proof/Machine/Operands.lean ====
section
/-! DEFINITION. The operand forms: the selector of RDS (spec/20_memory.md R65) and the mask of CLR
(spec/44_status_and_control.md R202). The operand of KEYB, IVB and PTB is IMM as it stands (R92). -/

namespace Sys2Proof.Machine

/-- The registers RDS can read. -/
inductive StatusRegister where
  | status
  | bsz
  | cause
  deriving DecidableEq, Repr

/-- The selector map (R65); 3 and above are reserved. -/
def selectRegister (sel : Byte) : Option StatusRegister :=
  match sel.toNat with
  | 0 => some .status
  | 1 => some .bsz
  | 2 => some .cause
  | _ => none

/-- The value a status register reads as, 8 bits (R65, R201). -/
def readRegister (s : State) : StatusRegister → Byte
  | .status => status s
  | .bsz => s.bsz
  | .cause => s.cause.code.zeroExtend 8

/-- The items of CLR's mask, in the order of its bits 0 to 5 (R202). -/
structure ClearMask where
  keys : Bool
  ivs : Bool
  msg : Bool
  out : Bool
  cause : Bool
  encryptor : Bool
  deriving DecidableEq, Repr

/-- The mask's items; bits 7 and 6 must be 0 (R202). -/
def clearMask (mask : Byte) : Option ClearMask :=
  if mask.extractLsb' 6 2 = 0 then
    some { keys := mask.getLsbD 0, ivs := mask.getLsbD 1, msg := mask.getLsbD 2,
           out := mask.getLsbD 3, cause := mask.getLsbD 4, encryptor := mask.getLsbD 5 }
  else none

/-- Bits 0 to 4 of the mask: the staging buffers, OUT and CAUSE (R202). -/
def clearItems (m : ClearMask) (s : State) : State :=
  { s with
    keys := if m.keys then [] else s.keys
    ivs := if m.ivs then [] else s.ivs
    msg := if m.msg then [] else s.msg
    out := if m.out then [] else s.out
    cause := if m.cause then .none else s.cause }

/-- Bit 5 of the mask: the encryptor's lifetime ends (R202, R43). -/
def clearEncryptor (m : ClearMask) (s : State) : State :=
  if m.encryptor then { s with key := [], iv := [], bsz := 0, phase := .unconf } else s

end Sys2Proof.Machine
end

