-- ==== Sys2Proof/Machine/Control.lean ====
section
/-! DEFINITION. Status and control: NOP, RDS, CLR (spec/44_status_and_control.md). -/

namespace Sys2Proof.Machine

/-- NOP: respond and do nothing (R200). -/
def execNop (s : State) : Host.Outcome State Fault Refusal := .next (respondDone s)

/-- RDS: read a status register; a reserved selector is IllegalCommandError (R201, R224 check 4). -/
def execRds (sel : Byte) (s : State) : Host.Outcome State Fault Refusal :=
  match selectRegister sel with
  | none => .next (commandFault .illegalCommand s)
  | some r => .next (respond false false .none (readRegister s r) s)

/-- CLR: clear every selected item in one step; a reserved mask bit is IllegalCommandError (R202, R224 check 5). -/
def execClr (mask : Byte) (s : State) : Host.Outcome State Fault Refusal :=
  match clearMask mask with
  | none => .next (commandFault .illegalCommand s)
  | some m => .next (respondDone (clearEncryptor m (clearItems m s)))

end Sys2Proof.Machine
end

