-- ==== Sys2Proof/Machine/Padder.lean ====
section
/-! DEFINITION. The PKCS#7 padder: functions `padlen`, `pad`, `unpad` and micro-step U_PAD (spec/41_padding.md). -/

namespace Sys2Proof.Machine

/-- `padlen(data, b)` of R140, for 1 <= b <= 255. -/
def padLen (data : Bytes) (b : Nat) : Nat := b - data.length % b

/-- `rep(n, v)` of R9. -/
def rep (n : Nat) (v : Byte) : Bytes := List.replicate n v

/-- `pad(data, b)` of R140, for 1 <= b <= 255; claims carry that premise (log 8). -/
def pad (data : Bytes) (b : Nat) : Bytes :=
  data ++ rep (padLen data b) (BitVec.ofNat 8 (padLen data b))

/-- `unpad` of R143, a function for testing the padder only: no command reaches it. No value for the empty sequence, nor
where the last byte exceeds the length. -/
def unpad (p : Bytes) : Option Bytes :=
  match p.getLast? with
  | none => none
  | some n => if n.toNat ≤ p.length then some (slice p 0 (p.length - n.toNat)) else none

/-- Micro-step U_PAD: pad the message and load the sequencer (R141). `pad` has no value at BSZ = 0: fault, log 6. -/
def uPad (s : State) : Host.Outcome State Fault Refusal :=
  if s.bsz = 0 then .fault .padUndefined
  else .next
    { s with
      pbuf := pad s.pbuf s.bsz.toNat
      prev := some s.iv
      idx := 0
      nblk := (s.pbuf.length + padLen s.pbuf s.bsz.toNat) / s.bsz.toNat
      phase := .xor }

end Sys2Proof.Machine
end

