-- ==== Sys2Proof/Machine/Xor.lean ====
section
/-! DEFINITION. Block XOR: function `xor_bytes` and micro-step U_XOR (spec/42_block_xor.md). -/

namespace Sys2Proof.Machine

/-- `xor_bytes(a, b)` of R150; no value on unequal lengths, never truncated or extended (R151). -/
def xorBytes (a b : Bytes) : Option Bytes :=
  if a.length = b.length then some (List.zipWith (fun x y => x ^^^ y) a b) else none

/-- The request goes out on the primitive channel: MIX, REQ and STATE are written (R152). -/
def sendRequest (mixed : Bytes) (s : State) : State :=
  { s with mix := some mixed, req := some ⟨s.key, mixed⟩, phase := .cipher,
           trace := s.trace ++ [.request ⟨s.key, mixed⟩] }

/-- Micro-step U_XOR: mix block IDX with PREV and ask the primitive (R152); the block is at `IDX * BSZ` (R77). The length
check is R151's. A block outside PBUF, or PREV = `none`, has no value: fault, log 6. -/
def uXor (s : State) : Host.Outcome State Fault Refusal :=
  match s.prev with
  | none => .fault .noPreviousBlock
  | some prev =>
    match memRead s.pbuf (s.idx * s.bsz.toNat) s.bsz.toNat with
    | none => .fault .blockOutOfRange
    | some block =>
      match xorBytes block prev with
      | none => .next (endFail .invalidBlockSize s)
      | some mixed => .next (sendRequest mixed s)

end Sys2Proof.Machine
end

