-- ==== Sys2Proof/Machine/Encryption.lean ====
section
/-! DEFINITION. Chained encryption: the function `CBC`, PTB, ENC, RDB, and micro-step U_RSP
(spec/43_chained_encryption.md). -/

namespace Sys2Proof.Machine

/-! ## The function computed -/

/-- The loop of R160 from block `i` on, `left` blocks to go, with the carried `prev` and the `out` so far. -/
def cbcLoop (E : Primitive) (key padded : Bytes) (b : Nat) : Nat → Nat → Bytes → Bytes → Answer
  | 0, _, _, out => .ok out
  | left + 1, i, prev, out =>
    match xorBytes (slice padded (i * b) b) prev with
    | none => .fail .invalidBlockSize
    | some mixed =>
      match E key mixed with
      | .fail e => .fail e
      | .ok c =>
        if c.length = b then cbcLoop E key padded b left (i + 1) c (out ++ c) else .fail .invalidBlockSize

/-- `CBC(E, key, iv, pt)` of R160, for 1 <= len(iv) <= 255; claims carry that premise (log 8). -/
def cbc (E : Primitive) (key iv pt : Bytes) : Answer :=
  cbcLoop E key (pad pt iv.length) iv.length ((pad pt iv.length).length / iv.length) 0 iv []

/-- The requests and answers of the same loop, in order (R172): one pair per block, up to the first failure. -/
def cbcTrafficLoop (E : Primitive) (key padded : Bytes) (b : Nat) : Nat → Nat → Bytes → List (Request × Answer)
  | 0, _, _ => []
  | left + 1, i, prev =>
    match xorBytes (slice padded (i * b) b) prev with
    | none => []
    | some mixed =>
      (⟨key, mixed⟩, E key mixed) ::
        match E key mixed with
        | .fail _ => []
        | .ok c => if c.length = b then cbcTrafficLoop E key padded b left (i + 1) c else []

/-- The (request, answer) pairs of one operation (R171, R172, R265). -/
def cbcTraffic (E : Primitive) (key iv pt : Bytes) : List (Request × Answer) :=
  cbcTrafficLoop E key (pad pt iv.length) iv.length ((pad pt iv.length).length / iv.length) 0 iv

/-! ## Commands -/

/-- PTB: append one byte to MSG, or CapacityError (R161). -/
def execPtb (imm : Byte) (s : State) : Host.Outcome State Fault Refusal :=
  match appendByte s.params.msgMax s.msg imm with
  | none => .next (commandFault .capacity s)
  | some msg => .next (respondDone { s with msg := msg })

/-- ENC's acceptance: the message moves to PBUF, OUT is emptied, the chainer is busy (R162). No response word yet. -/
def startOperation (s : State) : State :=
  { s with pbuf := s.msg, msg := [], out := [], phase := .pad }

/-- ENC: start the encryption of the staged plaintext; NotConfiguredError in UNCONF (R162). -/
def execEnc (s : State) : Host.Outcome State Fault Refusal :=
  if s.phase = .unconf then .next (commandFault .notConfigured s) else .next (startOperation s)

/-- RDB: pop the first byte of OUT, or answer EMPTY, which is no fault (R170). -/
def execRdb (s : State) : Host.Outcome State Fault Refusal :=
  match s.out with
  | [] => .next (respond false true .none 0#8 s)
  | d :: rest => .next (respond false false .none d { s with out := rest })

/-! ## Micro-step U_RSP -/

/-- U_RSP on a good answer: take the cipher block; on the last one the operation ends (R163, R166). -/
def takeBlock (c : Bytes) (s : State) : State :=
  if s.idx + 1 = s.nblk then endOk { s with out := s.out ++ c, req := none }
  else { s with out := s.out ++ c, req := none, prev := some c, idx := s.idx + 1, phase := .xor }

/-- U_RSP by the answer received: R163, R164 or R165. -/
def takeAnswer (a : Answer) (s : State) : State :=
  match a with
  | .fail e => endFail e s
  | .ok c => if c.length = s.bsz.toNat then takeBlock c s else endFail .invalidBlockSize s

/-- The primitive's answer step with the chainer's U_RSP (R70): the outstanding request is answered with `E(key, block)`.
CIPHER without a request has no value: fault, log 6. -/
def uRsp (E : Primitive) (s : State) : Host.Outcome State Fault Refusal :=
  match s.req with
  | none => .fault .noRequest
  | some r => .next (takeAnswer (E r.key r.block) (s.record (.answer (E r.key r.block))))

end Sys2Proof.Machine
end

