-- ==== Sys2Proof/Machine/Staging.lean ====
section
/-! DEFINITION. Staging and construction: KEYB, IVB, INIT (spec/40_staging_and_construction.md). A meaning starts after
the word was accepted and decoded. -/

namespace Sys2Proof.Machine

/-- KEYB: append one byte to KEYS, or CapacityError (R120). -/
def execKeyb (imm : Byte) (s : State) : Host.Outcome State Fault Refusal :=
  match appendByte s.params.keyMax s.keys imm with
  | none => .next (commandFault .capacity s)
  | some keys => .next (respondDone { s with keys := keys })

/-- IVB: append one byte to IVS, or CapacityError on the 256th (R121). -/
def execIvb (imm : Byte) (s : State) : Host.Outcome State Fault Refusal :=
  match appendByte (some ivsMax) s.ivs imm with
  | none => .next (commandFault .capacity s)
  | some ivs => .next (respondDone { s with ivs := ivs })

/-- The construction of R122: KEY, IV and BSZ from the staged bytes, which are emptied. -/
def construct (s : State) : State :=
  { s with key := s.keys, iv := s.ivs, bsz := BitVec.ofNat 8 s.ivs.length,
           keys := [], ivs := [], phase := .ready }

/-- INIT: construct an encryptor; InvalidBlockSizeError when no IV byte is staged (R122). More than 255 staged bytes, which
R26 excludes, give BSZ no value: fault, log 6. -/
def execInit (s : State) : Host.Outcome State Fault Refusal :=
  if s.ivs.length = 0 then .next (commandFault .invalidBlockSize s)
  else if s.ivs.length ≤ ivsMax then .next (respondDone (construct s))
  else .fault .ivTooLong

end Sys2Proof.Machine
end

