-- ==== Sys2Proof/Machine/Dispatch.lean ====
section
/-! DEFINITION. One arm per command. -/

namespace Sys2Proof.Machine

def exec (i : Instr) (s : State) : Host.Outcome State Fault Refusal :=
  match i with
  | .nop => Sys2Proof.Machine.execNop s
  | .keyb imm => Sys2Proof.Machine.execKeyb imm s
  | .ivb imm => Sys2Proof.Machine.execIvb imm s
  | .init => Sys2Proof.Machine.execInit s
  | .ptb imm => Sys2Proof.Machine.execPtb imm s
  | .enc => Sys2Proof.Machine.execEnc s
  | .rdb => Sys2Proof.Machine.execRdb s
  | .rds sel => Sys2Proof.Machine.execRds sel s
  | .clr mask => Sys2Proof.Machine.execClr mask s

end Sys2Proof.Machine
end

