-- ==== Sys2Proof/Machine/Agents.lean ====
section
/-! DEFINITION. The three agents' steps put together (spec/20_memory.md R70, R71; spec/43_chained_encryption.md R168;
spec/70_reset_and_hazards.md R250, R254, R258, R265), over any primitive. -/

namespace Sys2Proof.Machine

/-- STATE = CIPHER: the primitive lets time pass, stays silent for ever (R258), or answers, U_RSP following in the same
step (R70). -/
def primitiveStep (E : Primitive) (s : State) : Host.Outcome State Fault Refusal :=
  match s.delays with
  | [] => uRsp E s
  | .after 0 :: rest => uRsp E { s with delays := rest }
  | .after (n + 1) :: rest => .next { s with delays := .after n :: rest }
  | .never :: _ => .next s

/-- The step that needs no host, by STATE (R168). In UNCONF and READY none is enabled and the state stays (R237, R265). -/
def ownStep (E : Primitive) (s : State) : Host.Outcome State Fault Refusal :=
  match s.phase with
  | .unconf => .next s
  | .ready => .next s
  | .pad => uPad s
  | .xor => uXor s
  | .cipher => primitiveStep E s

/-- A command word is accepted: it is decoded, an illegal one faulting (R94, R223, R224), and performed. -/
def acceptWord (w : Word) (s : State) : Host.Outcome State Fault Refusal :=
  match decode w with
  | .error _ => .next (commandFault .illegalCommand (s.record (.command w)))
  | .ok i => exec i (s.record (.command w))

/-- One step with primitive `E`. The host's next move is looked at first: reset is enabled always, a word only while the
chainer is not busy, and is held otherwise (R70). -/
def stepWith (E : Primitive) (s : State) : Host.Outcome State Fault Refusal :=
  match s.host with
  | [] => ownStep E s
  | .reset :: rest => .next (applyReset { s with host := rest })
  | .idle :: rest => ownStep E { s with host := rest }
  | .send w :: rest => if s.phase.busy then ownStep E s else acceptWord w { s with host := rest }

/-- `n` steps with primitive `E`, stopping at a fault or a refusal. -/
def runWith (E : Primitive) : Nat → State → Host.Outcome State Fault Refusal
  | 0, s => .next s
  | n + 1, s =>
    match stepWith E s with
    | .next s' => runWith E n s'
    | .fault r => .fault r
    | .refused r => .refused r

/-- The word of the opcode table that the host is to send. -/
def fetchWord (nbits w : Nat) : Word := BitVec.ofNat 16 (tableWord nbits w)

end Sys2Proof.Machine
end

