-- ==== Sys2Proof/Machine/Step.lean ====
section
/-! DEFINITION. The machine's step, attached to the primitive of Config. -/

namespace Sys2Proof.Machine

/-- One step of the machine (R70). -/
def step (s : State) : Host.Outcome State Fault Refusal := stepWith Config.encryptBlock s

/-- `s` with the word as the host's next move: the chainer fetches nothing (R75), it accepts what the host sends. In UNCONF
and READY the very next step accepts it; a busy chainer holds it (R70). Log 1. -/
def State.withFetchWord (s : State) (nbits w : Nat) : State :=
  { s with host := .send (fetchWord nbits w) :: s.host }

end Sys2Proof.Machine
end

