-- ==== Sys2Proof/Machine/Assembler.lean ====
section
/-! DEFINITION. The assembler's pseudo-instructions and line form (spec/30_encoding.md R100 to R103). It is no part of the
machine: it writes the words a host sends. -/

namespace Sys2Proof.Machine

/-- `NEW <key>, <iv>` (R101). -/
def asmNew (key iv : Bytes) : List Instr := key.map .keyb ++ iv.map .ivb ++ [.init]

/-- `ENCRYPT <plaintext>` (R102). -/
def asmEncrypt (pt : Bytes) : List Instr := pt.map .ptb ++ [.enc]

/-- `READ <n>` (R103). -/
def asmRead (n : Nat) : List Instr := List.replicate n .rdb

/-- The value of a hexadecimal digit, either case. -/
def hexDigit (c : Char) : Option Nat :=
  if '0' ≤ c ∧ c ≤ '9' then some (c.toNat - 48)
  else if 'a' ≤ c ∧ c ≤ 'f' then some (c.toNat - 87)
  else if 'A' ≤ c ∧ c ≤ 'F' then some (c.toNat - 55)
  else none

/-- The value of a decimal digit. -/
def decDigit (c : Char) : Option Nat :=
  if '0' ≤ c ∧ c ≤ '9' then some (c.toNat - 48) else none

/-- Digits in base `b` after the value `acc`. -/
def digitsFrom (digit : Char → Option Nat) (b : Nat) : Nat → List Char → Option Nat
  | acc, [] => some acc
  | acc, c :: cs =>
    match digit c with
    | none => none
    | some d => digitsFrom digit b (acc * b + d) cs

/-- An unsigned number, hexadecimal with `0x` or decimal (R100). -/
def number : List Char → Option Nat
  | [] => none
  | ['0', 'x'] => none
  | '0' :: 'x' :: ds => digitsFrom hexDigit 16 0 ds
  | ds => digitsFrom decDigit 10 0 ds

/-- A number from 0 to 255 as IMM (R100). -/
def byteOperand (t : List Char) : Option Byte :=
  match number t with
  | none => none
  | some n => if n ≤ 255 then some (BitVec.ofNat 8 n) else none

/-- The names RDS accepts, else a number (R100). -/
def selectorOperand (t : List Char) : Option Byte :=
  if t = "STATUS".toList then some 0
  else if t = "BSZ".toList then some 1
  else if t = "CAUSE".toList then some 2
  else byteOperand t

/-- One name of CLR's list (R100). -/
def maskName (t : List Char) : Option Byte :=
  if t = "KEYS".toList then some 0x01
  else if t = "IVS".toList then some 0x02
  else if t = "MSG".toList then some 0x04
  else if t = "OUT".toList then some 0x08
  else if t = "CAUSE".toList then some 0x10
  else if t = "ENCRYPTOR".toList then some 0x20
  else none

/-- The bits of a list of names, together. -/
def maskNames : List (List Char) → Option Byte
  | [] => some 0
  | t :: ts =>
    match maskName t, maskNames ts with
    | some m, some ms => some (m ||| ms)
    | _, _ => none

/-- CLR's operand: a number, or names separated by `|` (R100). -/
def maskOperand (t : List Char) : Option Byte :=
  match byteOperand t with
  | some m => some m
  | none => maskNames (t.splitOnP (· == '|'))

/-- Pairs of hexadecimal digits as bytes. -/
def hexPairs : List Char → Option Bytes
  | [] => some []
  | [_] => none
  | h :: l :: cs =>
    match hexDigit h, hexDigit l, hexPairs cs with
    | some a, some b, some bs => some (BitVec.ofNat 8 (16 * a + b) :: bs)
    | _, _, _ => none

/-- A byte string in hexadecimal, `[]` for the empty one (R101, R102). -/
def byteString (t : List Char) : Option Bytes :=
  if t = "[]".toList then some [] else if t = [] then none else hexPairs t

/-- The words of a line: what stands before `;`, cut at blanks and, for NEW, at the comma (R100, R101). -/
def lineTokens (l : List Char) : List (List Char) :=
  ((l.takeWhile (· != ';')).splitOnP (fun c => c == ' ' || c == '\t' || c == ',')).filter (fun t => !t.isEmpty)

/-- The instructions of one line: a command, a pseudo-instruction, or none for an empty line (R100 to R103). An operand that
is a number may give an illegal word, as `CLR 0x40` does. Log 10. -/
def asmLine (l : List Char) : Option (List Instr) :=
  match lineTokens l with
  | [] => some []
  | [m] =>
    if m = "NOP".toList then some [.nop]
    else if m = "INIT".toList then some [.init]
    else if m = "ENC".toList then some [.enc]
    else if m = "RDB".toList then some [.rdb]
    else none
  | [m, t] =>
    if m = "KEYB".toList then (byteOperand t).map (fun b => [.keyb b])
    else if m = "IVB".toList then (byteOperand t).map (fun b => [.ivb b])
    else if m = "PTB".toList then (byteOperand t).map (fun b => [.ptb b])
    else if m = "RDS".toList then (selectorOperand t).map (fun b => [.rds b])
    else if m = "CLR".toList then (maskOperand t).map (fun b => [.clr b])
    else if m = "ENCRYPT".toList then (byteString t).map asmEncrypt
    else if m = "READ".toList then (number t).map asmRead
    else none
  | [m, t, u] =>
    if m = "NEW".toList then
      match byteString t, byteString u with
      | some key, some iv => some (asmNew key iv)
      | _, _ => none
    else none
  | _ => none

end Sys2Proof.Machine
end

