-- ==== Sys2Proof/Safety.lean ====
section
/-! DEFINITION. What a well-kept state is: the invariants of spec/10_state.md R40, in the terms the statements use. -/

namespace Sys2Proof.Machine

/-- The hidden registers hold their idle values (R39). -/
structure HiddenIdle (s : State) : Prop where
  pbuf : s.pbuf = []
  idx : s.idx = 0
  nblk : s.nblk = 0
  prev : s.prev = none
  mix : s.mix = none
  req : s.req = none

/-- The sequencer inside the loop over blocks, STATE = XOR or CIPHER (R40 item 6). -/
structure InLoop (s : State) : Prop where
  pbuf : s.pbuf.length = s.nblk * s.bsz.toNat
  nblk : 1 ≤ s.nblk
  idx : s.idx < s.nblk
  prev : ∃ p, s.prev = some p ∧ p.length = s.bsz.toNat
  out : s.out.length = s.idx * s.bsz.toNat

/-- The state invariants of R40, items 1 to 7 (item 3 is in the types), and what an accepted ENC leaves in STATE = PAD
(R44, DEDUCED from its row). -/
structure WellKept (s : State) : Prop where
  /-- Item 1. -/
  iv : s.iv.length = s.bsz.toNat
  /-- Item 2. -/
  unconf : s.phase = .unconf ↔ s.bsz = 0
  /-- Item 2, second half. -/
  noKey : s.phase = .unconf → s.key = [] ∧ s.iv = []
  /-- Item 4. -/
  buffers : Memory.wf s = true
  /-- Item 5. -/
  quiescent : s.phase.busy = false → HiddenIdle s
  /-- R44: ENC (accept) writes PBUF, MSG, OUT and STATE only, from an idle sequencer. -/
  padding : s.phase = .pad → s.idx = 0 ∧ s.nblk = 0 ∧ s.prev = none ∧ s.mix = none ∧ s.out = []
  /-- Item 6. -/
  loop : s.phase = .xor ∨ s.phase = .cipher → InLoop s
  /-- Item 7. -/
  cipher : s.phase = .cipher → ∃ m, s.mix = some m ∧ m.length = s.bsz.toNat ∧ s.req = some ⟨s.key, m⟩
  /-- Item 7, second half. -/
  noRequest : s.phase ≠ .cipher → s.req = none

/-- The primitive channel's record of one operation, from its (request, answer) pairs (R265). -/
def trafficEvents (ps : List (Request × Answer)) : List Event := ps.flatMap (fun p => [.request p.1, .answer p.2])

/-- The request that is on the primitive channel and not yet answered, as the record shows it (R38). -/
def pendingEvents (s : State) : List Event :=
  match s.req with
  | none => []
  | some r => [.request r]

/-- The record of an operation that succeeded: its ENC, its requests and answers, its response (R171, R265). -/
def operationEvents (E : Primitive) (key iv pt : Bytes) : List Event :=
  [.command 0x5000] ++ trafficEvents (cbcTraffic E key iv pt) ++ [.response 0x0000]

/-- What OUT holds, over primitive `E` (R40 item 8, R169). The ciphertext is one that R160 defines: the block size is 1 to
255. -/
structure OutIsCiphertext (E : Primitive) (s : State) : Prop where
  /-- With the chainer not busy, nothing, or what RDB has not yet popped of the whole ciphertext of the most recent
  successful operation: the record holds that operation, and no request after it. -/
  quiescent : s.phase.busy = false → s.out = [] ∨
    ∃ key iv pt ct before later, 1 ≤ iv.length ∧ iv.length ≤ 255 ∧ cbc E key iv pt = .ok ct ∧ s.out <:+ ct ∧
      s.trace = before ++ operationEvents E key iv pt ++ later ∧ ∀ r, .request r ∉ later
  /-- In PAD the record ends with the ENC. -/
  padding : s.phase = .pad → ∃ before, s.trace = before ++ [.command 0x5000]
  /-- In the loop, a part that the rest of the loop of R160 completes to the ciphertext of the message in progress, and a
  record since the ENC that the rest of the loop's requests completes. -/
  loop : s.phase = .xor ∨ s.phase = .cipher →
    ∃ m p before made, s.pbuf = pad m s.bsz.toNat ∧ s.prev = some p ∧
      cbcLoop E s.key s.pbuf s.bsz.toNat (s.nblk - s.idx) s.idx p s.out = cbc E s.key s.iv m ∧
      made ++ cbcTrafficLoop E s.key s.pbuf s.bsz.toNat (s.nblk - s.idx) s.idx p = cbcTraffic E s.key s.iv m ∧
      s.trace = before ++ [.command 0x5000] ++ trafficEvents made ++ pendingEvents s
  /-- In CIPHER the request is block IDX mixed with PREV. -/
  request : s.phase = .cipher →
    ∃ p mixed, s.prev = some p ∧ s.req = some ⟨s.key, mixed⟩ ∧
      xorBytes (slice s.pbuf (s.idx * s.bsz.toNat) s.bsz.toNat) p = some mixed

/-- The moves begin, if at all, with a word offered: a busy chainer holds it (R70). -/
def HostWaits (moves : List HostMove) : Prop := moves = [] ∨ ∃ w rest, moves = .send w :: rest

/-- No reset comes before the next word: idle moves, then a word or nothing. While the chainer is busy the idle moves are
used up and the word is held (R70, log 1). -/
def NoResetAhead : List HostMove → Prop
  | [] => True
  | .send _ :: _ => True
  | .idle :: rest => NoResetAhead rest
  | .reset :: _ => False

/-- `later` is what is left of `moves` after some idle moves, and nothing else, were used up. -/
def AfterIdles (moves later : List HostMove) : Prop := ∃ k, moves = List.replicate k .idle ++ later

/-- The host offers the words of these instructions, one after the other. -/
def sends (is : List Instr) : List HostMove := is.map (fun i => .send (encode i))

/-- The channel record of commands that all answer `0x0000`. -/
def acceptedDone (is : List Instr) : List Event := is.flatMap (fun i => [.command (encode i), .response 0x0000])

/-- A response word sent. -/
def Event.isResponse : Event → Bool
  | .command _ => false
  | .response _ => true
  | .request _ => false
  | .answer _ => false
  | .reset => false

/-- A command word accepted. -/
def Event.isCommand : Event → Bool
  | .command _ => true
  | .response _ => false
  | .request _ => false
  | .answer _ => false
  | .reset => false

/-- `E(key, .)` is injective on blocks of `b` bytes, the named premise of R176 and R177
(spec/93_implementation_defined.md U7). -/
def InjectiveOn (E : Primitive) (key : Bytes) (b : Nat) : Prop :=
  ∀ x y : Bytes, x.length = b → y.length = b → E key x = E key y → x = y

/-- Block `i` of a byte sequence cut in blocks of `b` bytes (R61 item 2). -/
def block (s : Bytes) (b i : Nat) : Bytes := slice s (i * b) b

end Sys2Proof.Machine
end

