-- ==== Sys2Proof/Certificates/Slice0/Obligations.lean ====
section
/-! DEFINITION. The statements for the provers, from the numbered rules of spec/. -/

open Sys2Proof Sys2Proof.Machine

/-! ## Encodings -/

/-- Decode and encode agree on every well-formed command, at every value of its operand (R91, R93). -/
def Obligations.EncodedCommandDecodesBack : Prop :=
  ∀ i : Instr, i.WellFormed → decode (encode i) = .ok i

/-- Every legal word is the word of exactly the well-formed command it decodes to (R91, R93). -/
def Obligations.DecodedWordEncodesBack : Prop :=
  ∀ (w : Word) (i : Instr), decode w = .ok i → i.WellFormed ∧ encode i = w

/-- R94: the illegal words are exactly those of its list. -/
def Obligations.IllegalWordsAreTheListed : Prop :=
  ∀ w : Word, (∃ e, decode w = .error e) ↔
    ((w.toNat / 256) % 16 ≠ 0 ∨ 9 ≤ w.toNat / 4096 ∨
     (0x0001 ≤ w.toNat ∧ w.toNat ≤ 0x00FF) ∨ (0x3001 ≤ w.toNat ∧ w.toNat ≤ 0x30FF) ∨
     (0x5001 ≤ w.toNat ∧ w.toNat ≤ 0x50FF) ∨ (0x6001 ≤ w.toNat ∧ w.toNat ≤ 0x60FF) ∨
     (0x7003 ≤ w.toNat ∧ w.toNat ≤ 0x70FF) ∨ (0x8040 ≤ w.toNat ∧ w.toNat ≤ 0x80FF))

/-- R93: a word is the command of a row when `(w & mask) == match` and the row's IMM condition holds. -/
def Obligations.DecoderFollowsMatchAndMask : Prop :=
  ∀ (r : TableRow), r ∈ opcodeTable → ∀ w : Word,
    (∃ i, decode w = .ok i ∧ i.mnemonic = r.mnemonic) ↔ rowAccepts r w = true

/-- Words written out from the patterns of R93 decode to their commands. -/
def Obligations.SpelledOutWordsDecode : Prop :=
  decode 0b0000000000000000 = .ok .nop ∧ decode 0b0001000000101011 = .ok (.keyb 0x2B) ∧
  decode 0b0010000010100001 = .ok (.ivb 0xA1) ∧ decode 0b0011000000000000 = .ok .init ∧
  decode 0b0100000001100001 = .ok (.ptb 0x61) ∧ decode 0b0101000000000000 = .ok .enc ∧
  decode 0b0110000000000000 = .ok .rdb ∧ decode 0b0111000000000010 = .ok (.rds 2) ∧
  decode 0b1000000000111111 = .ok (.clr 0x3F)

/-! ## The commands -/

/-- R200: NOP responds `0x0000` and changes nothing. -/
def Obligations.NopOnlyResponds : Prop :=
  decode 0x0000 = .ok .nop ∧
  ∀ s : State, exec .nop s = .next { s with trace := s.trace ++ [.response 0x0000] }

/-- R120: KEYB appends its byte to KEYS and responds `0x0000`; when KEYS holds KEY_MAX bytes it only writes CAUSE 5 and
responds `0x8500`. -/
def Obligations.KeybAppendsToKeys : Prop :=
  ∀ (b : Byte) (s : State),
    decode (0x1000 ||| b.setWidth 16) = .ok (.keyb b) ∧
    ((∀ m, s.params.keyMax = some m → s.keys.length < m) →
      exec (.keyb b) s = .next { s with keys := s.keys ++ [b], trace := s.trace ++ [.response 0x0000] }) ∧
    (∀ m, s.params.keyMax = some m → m ≤ s.keys.length →
      exec (.keyb b) s = .next { s with cause := .capacity, trace := s.trace ++ [.response 0x8500] })

/-- R121: IVB appends its byte to IVS and responds `0x0000`; when IVS holds 255 bytes it only writes CAUSE 5 and responds
`0x8500`. -/
def Obligations.IvbAppendsToIvs : Prop :=
  ∀ (b : Byte) (s : State),
    decode (0x2000 ||| b.setWidth 16) = .ok (.ivb b) ∧
    (s.ivs.length < 255 →
      exec (.ivb b) s = .next { s with ivs := s.ivs ++ [b], trace := s.trace ++ [.response 0x0000] }) ∧
    (255 ≤ s.ivs.length →
      exec (.ivb b) s = .next { s with cause := .capacity, trace := s.trace ++ [.response 0x8500] })

/-- R122: INIT makes the encryptor from KEYS and IVS, empties both and responds `0x0000`; with IVS empty it only writes
CAUSE 2 and responds `0x8200`. IVS holds at most 255 bytes (R26). -/
def Obligations.InitConstructsTheEncryptor : Prop :=
  decode 0x3000 = .ok .init ∧
  ∀ s : State,
    (1 ≤ s.ivs.length → s.ivs.length ≤ 255 →
      ∃ b : BitVec 8, b.toNat = s.ivs.length ∧
        exec .init s = .next { s with
          key := s.keys, iv := s.ivs, bsz := b, keys := [], ivs := [], phase := .ready
          trace := s.trace ++ [.response 0x0000] }) ∧
    (s.ivs = [] →
      exec .init s = .next { s with cause := .invalidBlockSize, trace := s.trace ++ [.response 0x8200] })

/-- R161: PTB appends its byte to MSG and responds `0x0000`; when MSG holds MSG_MAX bytes it only writes CAUSE 5 and
responds `0x8500`. -/
def Obligations.PtbAppendsToMsg : Prop :=
  ∀ (b : Byte) (s : State),
    decode (0x4000 ||| b.setWidth 16) = .ok (.ptb b) ∧
    ((∀ m, s.params.msgMax = some m → s.msg.length < m) →
      exec (.ptb b) s = .next { s with msg := s.msg ++ [b], trace := s.trace ++ [.response 0x0000] }) ∧
    (∀ m, s.params.msgMax = some m → m ≤ s.msg.length →
      exec (.ptb b) s = .next { s with cause := .capacity, trace := s.trace ++ [.response 0x8500] })

/-- R162, the acceptance: ENC in READY moves MSG to PBUF, empties MSG and OUT, goes to PAD and sends no response; in UNCONF
it only writes CAUSE 4 and responds `0x8400`. -/
def Obligations.EncStartsTheOperation : Prop :=
  decode 0x5000 = .ok .enc ∧
  ∀ s : State,
    (s.phase = .ready →
      exec .enc s = .next { s with pbuf := s.msg, msg := [], out := [], phase := .pad }) ∧
    (s.phase = .unconf →
      exec .enc s = .next { s with cause := .notConfigured, trace := s.trace ++ [.response 0x8400] })

/-- R170: RDB pops the first byte of OUT into DATA; with OUT empty it responds `0x4000` and changes nothing. -/
def Obligations.RdbPopsTheFirstByte : Prop :=
  decode 0x6000 = .ok .rdb ∧
  ∀ s : State,
    (∀ d rest, s.out = d :: rest →
      exec .rdb s = .next { s with out := rest, trace := s.trace ++ [.response (d.setWidth 16)] }) ∧
    (s.out = [] → exec .rdb s = .next { s with trace := s.trace ++ [.response 0x4000] })

/-- R201 with R34 and R65: RDS reads STATUS, BSZ or CAUSE and changes nothing. The last clause, a selector of 3 or more, is
the model's own (DEDUCED, log 7): the spec gives that fault to the decode checks, which refuse such a word before. -/
def Obligations.RdsReadsTheSelectedRegister : Prop :=
  (∀ sel : Byte, sel.toNat ≤ 2 → decode (0x7000 ||| sel.setWidth 16) = .ok (.rds sel)) ∧
  ∀ s : State,
    (∃ r : Word, r.toNat = (if s.cause = .none then 0 else 16) + (if s.out = [] then 0 else 8) + s.phase.code.toNat ∧
      exec (.rds 0) s = .next { s with trace := s.trace ++ [.response r] }) ∧
    exec (.rds 1) s = .next { s with trace := s.trace ++ [.response (s.bsz.setWidth 16)] } ∧
    exec (.rds 2) s = .next { s with trace := s.trace ++ [.response (s.cause.code.setWidth 16)] } ∧
    ∀ sel : Byte, 3 ≤ sel.toNat →
      exec (.rds sel) s = .next { s with cause := .illegalCommand, trace := s.trace ++ [.response 0x8300] }

/-- R202: CLR clears every item its mask selects, in one step, and responds `0x0000`. The last clause, a mask with bit 7 or
6, is the model's own (DEDUCED, log 7): the spec gives that fault to the decode checks, which refuse such a word before. -/
def Obligations.ClrClearsTheSelectedItems : Prop :=
  (∀ m : Byte, m.toNat < 0x40 → decode (0x8000 ||| m.setWidth 16) = .ok (.clr m)) ∧
  ∀ (m : Byte) (s : State),
    (m.toNat < 0x40 →
      exec (.clr m) s = .next { s with
        keys := if m.getLsbD 0 then [] else s.keys
        ivs := if m.getLsbD 1 then [] else s.ivs
        msg := if m.getLsbD 2 then [] else s.msg
        out := if m.getLsbD 3 then [] else s.out
        cause := if m.getLsbD 4 then .none else s.cause
        key := if m.getLsbD 5 then [] else s.key
        iv := if m.getLsbD 5 then [] else s.iv
        bsz := if m.getLsbD 5 then 0 else s.bsz
        phase := if m.getLsbD 5 then .unconf else s.phase
        trace := s.trace ++ [.response 0x0000] }) ∧
    (0x40 ≤ m.toNat →
      exec (.clr m) s = .next { s with cause := .illegalCommand, trace := s.trace ++ [.response 0x8300] })

/-- R202 (b): where a command can be accepted, CLR `0x3F` leaves what reset leaves. -/
def Obligations.ClearingEverythingIsLikeReset : Prop :=
  ∀ s : State, WellKept s → s.phase.busy = false →
    exec (.clr 0x3F) s = .next { State.reset with
      params := s.params, host := s.host, delays := s.delays, trace := s.trace ++ [.response 0x0000] }

/-- No command's outcome or response depends on KEY, IV, PBUF, PREV, MIX or REQ (R22, R23, R39, R236): changing them
changes nothing in what the host is answered, in OUT, in CAUSE or in STATE. -/
def Obligations.NoCommandReadsTheSecrets : Prop :=
  ∀ (i : Instr) (s t : State) (key iv pbuf : Bytes) (prev mix : Option Bytes) (req : Option Request),
    exec i s = .next t →
    ∃ t', exec i { s with key := key, iv := iv, pbuf := pbuf, prev := prev, mix := mix, req := req } = .next t' ∧
      t'.trace = t.trace ∧ t'.out = t.out ∧ t'.cause = t.cause ∧ t'.phase = t.phase

/-! ## The micro-steps -/

/-- R141: U_PAD appends the padding, copies IV to PREV and loads IDX and NBLK; nothing else changes. -/
def Obligations.UPadPadsAndLoadsTheSequencer : Prop :=
  ∀ (E : Primitive) (s : State), s.phase = .pad → HostWaits s.host → s.bsz ≠ 0 →
    ∃ n : Byte, n.toNat = s.bsz.toNat - s.pbuf.length % s.bsz.toNat ∧
      stepWith E s = .next { s with
        pbuf := s.pbuf ++ List.replicate n.toNat n
        prev := some s.iv
        idx := 0
        nblk := s.pbuf.length / s.bsz.toNat + 1
        phase := .xor }

/-- R152 with R150, R77: U_XOR mixes byte j of block IDX with byte j of PREV into MIX and sends (KEY, MIX) to the primitive;
a PREV of another length than BSZ fails the operation with code 2 (R151). -/
def Obligations.UXorMixesAndRequests : Prop :=
  ∀ (E : Primitive) (s : State) (p : Bytes), s.phase = .xor → HostWaits s.host → s.prev = some p →
    s.idx * s.bsz.toNat + s.bsz.toNat ≤ s.pbuf.length →
    (p.length = s.bsz.toNat →
      ∃ m : Bytes, m.length = s.bsz.toNat ∧
        (∀ j, j < s.bsz.toNat → m.getD j 0 = s.pbuf.getD (s.idx * s.bsz.toNat + j) 0 ^^^ p.getD j 0) ∧
        stepWith E s = .next { s with
          mix := some m, req := some ⟨s.key, m⟩, phase := .cipher
          trace := s.trace ++ [.request ⟨s.key, m⟩] }) ∧
    (p.length ≠ s.bsz.toNat →
      stepWith E s = .next { s with
        out := [], pbuf := [], prev := none, mix := none, idx := 0, nblk := 0, req := none
        cause := .invalidBlockSize, phase := .ready
        trace := s.trace ++ [.response 0x8200] })

/-- R163 and R166: an answer of BSZ bytes is appended to OUT; with more blocks to go it becomes PREV, after the last the
operation ends and the ENC is answered `0x0000`. -/
def Obligations.URspTakesAGoodBlock : Prop :=
  ∀ (E : Primitive) (s : State) (r : Request) (c : Bytes),
    s.phase = .cipher → HostWaits s.host → s.delays = [] → s.req = some r →
    E r.key r.block = .ok c → c.length = s.bsz.toNat →
    (s.idx + 1 ≠ s.nblk →
      stepWith E s = .next { s with
        out := s.out ++ c, prev := some c, idx := s.idx + 1, req := none, phase := .xor
        trace := s.trace ++ [.answer (.ok c)] }) ∧
    (s.idx + 1 = s.nblk →
      stepWith E s = .next { s with
        out := s.out ++ c, pbuf := [], prev := none, mix := none, idx := 0, nblk := 0, req := none, phase := .ready
        trace := s.trace ++ [.answer (.ok c), .response 0x0000] })

/-- R164, R165 and R167: a rejection, or an answer of the wrong length, empties OUT, idles the hidden registers, writes CAUSE
and answers the ENC with the code; KEY, IV and BSZ stay. -/
def Obligations.URspFailsTheOperation : Prop :=
  ∀ (E : Primitive) (s : State) (r : Request),
    s.phase = .cipher → HostWaits s.host → s.delays = [] → s.req = some r →
    (E r.key r.block = .fail .invalidKey →
      stepWith E s = .next { s with
        out := [], pbuf := [], prev := none, mix := none, idx := 0, nblk := 0, req := none
        cause := .invalidKey, phase := .ready
        trace := s.trace ++ [.answer (.fail .invalidKey), .response 0x8100] }) ∧
    (E r.key r.block = .fail .invalidBlockSize →
      stepWith E s = .next { s with
        out := [], pbuf := [], prev := none, mix := none, idx := 0, nblk := 0, req := none
        cause := .invalidBlockSize, phase := .ready
        trace := s.trace ++ [.answer (.fail .invalidBlockSize), .response 0x8200] }) ∧
    (∀ c, E r.key r.block = .ok c → c.length ≠ s.bsz.toNat →
      stepWith E s = .next { s with
        out := [], pbuf := [], prev := none, mix := none, idx := 0, nblk := 0, req := none
        cause := .invalidBlockSize, phase := .ready
        trace := s.trace ++ [.answer (.ok c), .response 0x8200] })

/-- R258: while the primitive does not answer, the chainer stays in CIPHER and a word offered stays held; a primitive that
never answers leaves the whole state as it is. The form of `delays` is the model's own (log 5). -/
def Obligations.SilentPrimitiveKeepsTheChainerWaiting : Prop :=
  ∀ (E : Primitive) (s : State), s.phase = .cipher → HostWaits s.host → ∀ rest : List Delay,
    (s.delays = .never :: rest → stepWith E s = .next s) ∧
    (∀ n, s.delays = .after (n + 1) :: rest → stepWith E s = .next { s with delays := .after n :: rest }) ∧
    (s.delays = .after 0 :: rest →
      stepWith E s = uRsp E { s with delays := rest })

/-! ## The agents -/

/-- When the chainer is not busy and the word offered decodes to `i`, the step is the execution of `i`: the word is taken
from the host's moves and recorded (R70, R71). -/
def Obligations.StepRunsTheDecodedCommand : Prop :=
  ∀ (s : State) (w : Word) (rest : List HostMove) (i : Instr),
    s.phase.busy = false → s.host = .send w :: rest → decode w = .ok i →
    step s = exec i { s with host := rest, trace := s.trace ++ [.command w] }

/-- R223: an illegal word offered to a chainer that is not busy writes CAUSE 3, responds `0x8300` and changes nothing
else. -/
def Obligations.IllegalWordOnlyWritesCause : Prop :=
  ∀ (s : State) (w : Word) (rest : List HostMove) (e : DecodeError),
    s.phase.busy = false → s.host = .send w :: rest → decode w = .error e →
    step s = .next { s with
      host := rest, cause := .illegalCommand, trace := s.trace ++ [.command w, .response 0x8300] }

/-- R250 and R252: reset, whatever STATE is, puts every piece of state at its value of R41 and sends no response. The model's
own fields (log 1, log 2, log 3) stay; the delay of a withdrawn request goes (log 5). -/
def Obligations.ResetStepResetsEverything : Prop :=
  ∀ (E : Primitive) (s : State) (rest : List HostMove), s.host = .reset :: rest →
    stepWith E s = .next
      { key := [], iv := [], bsz := 0, keys := [], ivs := [], msg := [], pbuf := [], idx := 0, nblk := 0,
        prev := none, mix := none, req := none, out := [], phase := .unconf, cause := .none,
        params := s.params, host := rest,
        delays := if s.phase = .cipher then s.delays.tail else s.delays,
        trace := s.trace ++ [.reset] }

/-- R41: the fifteen pieces and the derived views after reset. -/
def Obligations.ResetStateHasTheResetValues : Prop :=
  let s := State.reset
  s.key = [] ∧ s.iv = [] ∧ s.bsz = 0 ∧ s.keys = [] ∧ s.ivs = [] ∧ s.msg = [] ∧ s.pbuf = [] ∧ s.idx = 0 ∧
  s.nblk = 0 ∧ s.prev = none ∧ s.mix = none ∧ s.req = none ∧ s.out = [] ∧ s.phase = .unconf ∧ s.cause = .none ∧
  status s = 0 ∧ outv s = false ∧ err s = false

/-- R251: after reset STATUS, BSZ and CAUSE read 0, RDB answers `0x4000`, ENC `0x8400`, INIT `0x8200`. -/
def Obligations.CommandsAfterReset : Prop :=
  let s := State.reset
  exec (.rds 0) s = .next { s with trace := s.trace ++ [.response 0x0000] } ∧
  exec (.rds 1) s = .next { s with trace := s.trace ++ [.response 0x0000] } ∧
  exec (.rds 2) s = .next { s with trace := s.trace ++ [.response 0x0000] } ∧
  exec .rdb s = .next { s with trace := s.trace ++ [.response 0x4000] } ∧
  exec .enc s = .next { s with cause := .notConfigured, trace := s.trace ++ [.response 0x8400] } ∧
  exec .init s = .next { s with cause := .invalidBlockSize, trace := s.trace ++ [.response 0x8200] }

/-- R237, R265: in a quiescent state, with the host sending nothing, nothing happens. -/
def Obligations.QuiescentMachineKeepsItsState : Prop :=
  ∀ s : State, s.phase.busy = false → s.host = [] → step s = .next s

/-- An idle move of the host uses up one step, in which the chainer or the primitive moves if it can (the model's choice,
log 1). -/
def Obligations.IdleMoveLetsTheOthersMove : Prop :=
  ∀ (E : Primitive) (s : State) (rest : List HostMove), s.host = .idle :: rest →
    stepWith E s = ownStep E { s with host := rest } ∧
    (s.phase.busy = false → stepWith E s = .next { s with host := rest })

/-- Where a step stops, and by which name: the five cases, no other case, no refusal, and none of the five in a well-kept
state (the model's choice, log 6). -/
def Obligations.StopsWhereTheSpecGivesNoValue : Prop :=
  ∀ (E : Primitive) (s : State),
    (255 < s.ivs.length → exec .init s = .fault .ivTooLong) ∧
    (s.phase = .pad → HostWaits s.host → s.bsz = 0 → stepWith E s = .fault .padUndefined) ∧
    (s.phase = .xor → HostWaits s.host → s.prev = none → stepWith E s = .fault .noPreviousBlock) ∧
    (s.phase = .xor → HostWaits s.host → s.prev ≠ none →
      s.pbuf.length < s.idx * s.bsz.toNat + s.bsz.toNat → stepWith E s = .fault .blockOutOfRange) ∧
    (s.phase = .cipher → HostWaits s.host → (s.delays = [] ∨ ∃ rest, s.delays = .after 0 :: rest) → s.req = none →
      stepWith E s = .fault .noRequest) ∧
    (∀ f, stepWith E s = .fault f →
      (f = .ivTooLong ∧ s.phase.busy = false ∧ (∃ rest, s.host = .send 0x3000 :: rest) ∧ 255 < s.ivs.length) ∨
      (f = .padUndefined ∧ s.phase = .pad ∧ s.bsz = 0) ∨
      (f = .noPreviousBlock ∧ s.phase = .xor ∧ s.prev = none) ∨
      (f = .blockOutOfRange ∧ s.phase = .xor ∧ s.prev ≠ none ∧
        s.pbuf.length < s.idx * s.bsz.toNat + s.bsz.toNat) ∨
      (f = .noRequest ∧ s.phase = .cipher ∧ (s.delays = [] ∨ ∃ rest, s.delays = .after 0 :: rest) ∧ s.req = none)) ∧
    (∀ r, stepWith E s ≠ .refused r) ∧
    (WellKept s → ∀ f, stepWith E s ≠ .fault f)

/-! ## Rules of the whole machine -/

/-- Every step only adds to the record, and a command is accepted only while the chainer is not busy, as the host's next
move (R70, R254). -/
def Obligations.CommandsAreAcceptedOnlyWhenNotBusy : Prop :=
  ∀ (E : Primitive) (s s' : State), stepWith E s = .next s' →
    ∃ added, s'.trace = s.trace ++ added ∧
      ∀ w, .command w ∈ added →
        s.phase.busy = false ∧ s.host = .send w :: s'.host ∧ added.head? = some (.command w)

/-- R70: every accepted command gets exactly one response; that of an accepted ENC comes when the operation ends. Counted
step by step, reset apart: responses sent, plus one if an operation is now in progress, are commands accepted, plus one if
an operation was in progress. -/
def Obligations.EveryCommandGetsOneResponse : Prop :=
  ∀ (E : Primitive) (s s' : State), stepWith E s = .next s' → (∀ rest, s.host ≠ .reset :: rest) →
    ∃ added, s'.trace = s.trace ++ added ∧
      added.countP Event.isResponse + s'.phase.busy.toNat = added.countP Event.isCommand + s.phase.busy.toNat

/-- R96: only the listed response words are sent. -/
def Obligations.OnlyTheListedResponses : Prop :=
  ∀ (E : Primitive) (s s' : State), stepWith E s = .next s' →
    ∃ added, s'.trace = s.trace ++ added ∧
      ∀ r : Word, .response r ∈ added →
        (∃ d : Byte, r = d.setWidth 16) ∨ r = 0x4000 ∨ r = 0x8100 ∨ r = 0x8200 ∨ r = 0x8300 ∨ r = 0x8400 ∨ r = 0x8500

/-- R226: a command that ends in a fault response has changed CAUSE, to the response's code, and nothing else. -/
def Obligations.CommandFaultChangesOnlyCause : Prop :=
  ∀ (E : Primitive) (s s' : State) (w r : Word) (rest : List HostMove),
    s.phase.busy = false → s.host = .send w :: rest → stepWith E s = .next s' →
    s'.trace = s.trace ++ [.command w, .response r] → r.getLsbD 15 = true →
    ∃ c : Cause, c ≠ .none ∧ r = 0x8000 ||| (c.code.setWidth 16 <<< 8) ∧
      s' = { s with cause := c, host := rest, trace := s.trace ++ [.command w, .response r] }

/-- R33, R229, R260: CAUSE changes only by a fault, which leaves its own code there and in the response, by CLR with bit 4,
or by reset. -/
def Obligations.CauseIsStickyUntilCleared : Prop :=
  ∀ (E : Primitive) (s s' : State), stepWith E s = .next s' →
    ((s'.cause = s.cause) ∨
     (s'.cause ≠ .none ∧ ∃ more r, s'.trace = s.trace ++ more ++ [.response r] ∧ r.getLsbD 15 = true) ∨
     (s'.cause = .none ∧ ∃ rest, s.host = .reset :: rest) ∨
     (s'.cause = .none ∧ s.phase.busy = false ∧
       ∃ m : Byte, m.toNat < 0x40 ∧ m.getLsbD 4 = true ∧ s.host = .send (encode (.clr m)) :: s'.host)) ∧
    (∀ more r, s'.trace = s.trace ++ more ++ [.response r] → r.getLsbD 15 = true →
      s'.cause ≠ .none ∧ r = 0x8000 ||| (s'.cause.code.setWidth 16 <<< 8))

/-- R168: the transitions of the block state machine, each with its event, and IDX after it; with any other step STATE
stays. -/
def Obligations.OnlyTheListedTransitions : Prop :=
  ∀ (E : Primitive) (s s' : State), WellKept s → stepWith E s = .next s' →
    s'.phase = s.phase ∨
    (s'.phase = .unconf ∧ s'.idx = 0 ∧ ∃ rest, s.host = .reset :: rest) ∨
    (s.phase.busy = false ∧ s.host = .send 0x3000 :: s'.host ∧ s.ivs ≠ [] ∧ s'.phase = .ready ∧ s'.idx = 0) ∨
    (s.phase = .ready ∧ s.host = .send 0x5000 :: s'.host ∧ s'.phase = .pad ∧ s'.idx = 0) ∨
    (s.phase = .ready ∧ s'.phase = .unconf ∧ s'.idx = 0 ∧
      ∃ m : Byte, m.toNat < 0x40 ∧ m.getLsbD 5 = true ∧ s.host = .send (encode (.clr m)) :: s'.host) ∨
    (s.phase = .pad ∧ s'.phase = .xor ∧ s'.idx = 0) ∨
    (s.phase = .xor ∧ s'.phase = .cipher ∧ s'.idx = s.idx) ∨
    (s.phase = .cipher ∧ s'.phase = .xor ∧ s.idx + 1 < s.nblk ∧ s'.idx = s.idx + 1) ∨
    (s.phase = .cipher ∧ s'.phase = .ready ∧ s'.idx = 0)

/-- R43: KEY, IV and BSZ change only at a successful INIT, at a legal CLR with bit 5, or at reset. -/
def Obligations.EncryptorIsFixedForItsLifetime : Prop :=
  ∀ (E : Primitive) (s s' : State), stepWith E s = .next s' →
    (s'.key = s.key ∧ s'.iv = s.iv ∧ s'.bsz = s.bsz) ∨
    (∃ rest, s.host = .reset :: rest) ∨
    (s.phase.busy = false ∧ s.host = .send 0x3000 :: s'.host ∧ s.ivs ≠ []) ∨
    (s.phase.busy = false ∧ ∃ m : Byte, m.toNat < 0x40 ∧ m.getLsbD 5 = true ∧ s.host = .send (encode (.clr m)) :: s'.host)

/-- R169 with R166 and R167: when an operation ends, OUT holds all NBLK blocks or nothing. -/
def Obligations.OperationEndsWithAllOrNothing : Prop :=
  ∀ (E : Primitive) (s s' : State), WellKept s → s.phase.busy = true → stepWith E s = .next s' → s'.phase.busy = false →
    s'.out = [] ∨ (s'.out.length = s.nblk * s.bsz.toNat ∧ s'.phase = .ready)

/-- No step changes the capacities: they are parameters (R8); their place in the state is the model's choice (log 3). -/
def Obligations.NoStepChangesTheCapacities : Prop :=
  ∀ (E : Primitive) (s s' : State), stepWith E s = .next s' → s'.params = s.params

/-! ## Invariants -/

/-- The invariants of R40 hold at reset, whatever the primitive. -/
def Obligations.InvariantsHoldAtReset : Prop :=
  WellKept State.reset ∧ ∀ E : Primitive, OutIsCiphertext E State.reset

/-- R40 items 1 to 7: every step keeps the state invariants. -/
def Obligations.EveryStepKeepsTheInvariants : Prop :=
  ∀ s s' : State, WellKept s → step s = .next s' → WellKept s'

/-- R266, R265: from every state with the invariants, every step is a next state: no word, no answer and no reset stops the
machine. -/
def Obligations.NothingStopsAWellKeptMachine : Prop :=
  ∀ s : State, WellKept s → ∃ s', step s = .next s' ∧ WellKept s'

/-- R40 item 8 and R169, kept by every step whatever the primitive: a host that can read OUT finds there nothing, or an
unread tail of the whole ciphertext of the most recent successful operation, which the record shows (log 2). -/
def Obligations.ReadableOutIsCiphertext : Prop :=
  ∀ (E : Primitive) (s s' : State), WellKept s → OutIsCiphertext E s → stepWith E s = .next s' →
    WellKept s' ∧ OutIsCiphertext E s'

/-! ## The functions -/

/-- R142: what padding adds, for every data and every block size 1 to 255. -/
def Obligations.PaddingAddsOneToBlockSizeBytes : Prop :=
  ∀ (d : Bytes) (b : Nat), 1 ≤ b → b ≤ 255 →
    (pad d b).length % b = 0 ∧ d.length < (pad d b).length ∧
    (pad d b).length - d.length = padLen d b ∧ 1 ≤ padLen d b ∧ padLen d b ≤ b ∧
    (pad d b).length = (d.length / b + 1) * b ∧
    (pad d b).take d.length = d ∧
    ∀ x ∈ (pad d b).drop d.length, x.toNat = padLen d b

/-- R143: the padding round trip. -/
def Obligations.UnpadInvertsPad : Prop :=
  ∀ (d : Bytes) (b : Nat), 1 ≤ b → b ≤ 255 → unpad (pad d b) = some d

/-- R150, R151: `xor_bytes` pairs equal indices, and has no value on unequal lengths. -/
def Obligations.XorBytesIsBytewise : Prop :=
  ∀ a b : Bytes,
    (a.length = b.length → ∃ c, xorBytes a b = some c ∧ c.length = a.length ∧
      ∀ j, j < a.length → c.getD j 0 = a.getD j 0 ^^^ b.getD j 0) ∧
    (a.length ≠ b.length → xorBytes a b = none)

/-- R153: the laws of `xor_bytes` on sequences of one length. -/
def Obligations.XorBytesLaws : Prop :=
  ∀ (n : Nat) (a b c : Bytes), a.length = n → b.length = n → c.length = n →
    xorBytes a b = xorBytes b a ∧
    ((xorBytes a b).bind fun x => xorBytes x c) = ((xorBytes b c).bind fun y => xorBytes a y) ∧
    xorBytes a (rep n 0x00) = some a ∧
    xorBytes a a = some (rep n 0x00) ∧
    ((xorBytes a b).bind fun x => xorBytes x b) = some a ∧
    (xorBytes a b = xorBytes c b → a = c) ∧
    (xorBytes a b = xorBytes a c → b = c) ∧
    ∃ x, x.length = n ∧ xorBytes x b = some c

/-- R175: the length of a ciphertext. -/
def Obligations.CiphertextLength : Prop :=
  ∀ (E : Primitive) (key iv pt ct : Bytes), 1 ≤ iv.length → iv.length ≤ 255 →
    cbc E key iv pt = .ok ct → ct.length = (pt.length / iv.length + 1) * iv.length

/-- R160's equations and R172: a successful encryption makes one request per block, in order; request i is
`(key, P_i xor C_(i-1))`, with `C_(-1)` the IV, and its answer is `C_i`. -/
def Obligations.CiphertextBlocksAreChained : Prop :=
  ∀ (E : Primitive) (key iv pt ct : Bytes), 1 ≤ iv.length → iv.length ≤ 255 →
    cbc E key iv pt = .ok ct →
    (cbcTraffic E key iv pt).length = pt.length / iv.length + 1 ∧
    ∀ i, i < pt.length / iv.length + 1 →
      ∃ m, xorBytes (block (pad pt iv.length) iv.length i)
             (if i = 0 then iv else block ct iv.length (i - 1)) = some m ∧
        E key m = .ok (block ct iv.length i) ∧
        (cbcTraffic E key iv pt)[i]? = some (⟨key, m⟩, .ok (block ct iv.length i))

/-- R160, R164, R165, R172: an encryption that fails has made requests up to the failing one, whose answer is a rejection,
propagated unmodified, or is of the wrong length, which is InvalidBlockSizeError. -/
def Obligations.FailedEncryptionReportsTheAnswer : Prop :=
  ∀ (E : Primitive) (key iv pt : Bytes) (e : PrimError), 1 ≤ iv.length → iv.length ≤ 255 →
    cbc E key iv pt = .fail e →
    (cbcTraffic E key iv pt).length ≤ pt.length / iv.length + 1 ∧
    ∃ before r a, cbcTraffic E key iv pt = before ++ [(r, a)] ∧
      (∀ q ∈ before, ∃ c, q.2 = .ok c ∧ c.length = iv.length) ∧
      (a = .fail e ∨ (e = .invalidBlockSize ∧ ∃ c, a = .ok c ∧ c.length ≠ iv.length))

/-- R176: chaining sensitivity. -/
def Obligations.ChainingSensitivity : Prop :=
  ∀ (E : Primitive) (key iv pt pt' ct ct' : Bytes) (t : Nat), 1 ≤ iv.length → iv.length ≤ 255 →
    pt.length = pt'.length → t < pt.length → pt[t]? ≠ pt'[t]? → (∀ j, j ≠ t → pt[j]? = pt'[j]?) →
    cbc E key iv pt = .ok ct → cbc E key iv pt' = .ok ct' →
    (∀ i, i < t / iv.length → block ct iv.length i = block ct' iv.length i) ∧
    (InjectiveOn E key iv.length →
      ∀ i, t / iv.length ≤ i → i < pt.length / iv.length + 1 →
        block ct iv.length i ≠ block ct' iv.length i)

/-- R177: IV sensitivity, with every later block as by R176. -/
def Obligations.IvSensitivity : Prop :=
  ∀ (E : Primitive) (key iv iv' pt ct ct' : Bytes), 1 ≤ iv.length → iv.length ≤ 255 →
    iv.length = iv'.length → iv ≠ iv' →
    cbc E key iv pt = .ok ct → cbc E key iv' pt = .ok ct' → InjectiveOn E key iv.length →
    ∀ i, i < pt.length / iv.length + 1 → block ct iv.length i ≠ block ct' iv.length i

/-- R256: under one key and IV, messages with a common start of k whole blocks have ciphertexts with the same first k
blocks. -/
def Obligations.CommonStartLeaks : Prop :=
  ∀ (E : Primitive) (key iv pt pt' ct ct' : Bytes) (k : Nat), 1 ≤ iv.length → iv.length ≤ 255 →
    k * iv.length ≤ pt.length → k * iv.length ≤ pt'.length →
    pt.take (k * iv.length) = pt'.take (k * iv.length) →
    cbc E key iv pt = .ok ct → cbc E key iv pt' = .ok ct' →
    ct.take (k * iv.length) = ct'.take (k * iv.length)

/-! ## Operations and pseudo-instructions -/

/-- R171: an ENC accepted in READY, with a primitive that answers every request after whatever finite delay, ends with what
the function CBC gives: the ciphertext in OUT and response `0x0000`, or OUT empty, the code in CAUSE and in the response.
KEY, IV, BSZ, KEYS and IVS are as before and the hidden registers are idle; the requests made are those of CBC. Meanwhile
the host may idle or offer its next word. What is left of the host's moves and of the delays is the model's choice (log 1,
log 5). -/
def Obligations.OperationComputesCbc : Prop :=
  ∀ (E : Primitive) (s : State) (rest : List HostMove),
    WellKept s → s.phase = .ready → s.host = .send 0x5000 :: rest → NoResetAhead rest → Delay.never ∉ s.delays →
    let traffic := cbcTraffic E s.key s.iv s.msg
    (∀ ct, cbc E s.key s.iv s.msg = .ok ct →
      traffic.length = s.msg.length / s.bsz.toNat + 1 ∧
      ∃ n later, AfterIdles rest later ∧ runWith E n s = .next { s with
        msg := [], out := ct, host := later, delays := s.delays.drop traffic.length
        trace := s.trace ++ [.command 0x5000] ++ trafficEvents traffic ++ [.response 0x0000] }) ∧
    (cbc E s.key s.iv s.msg = .fail .invalidKey →
      ∃ n later, AfterIdles rest later ∧ runWith E n s = .next { s with
        msg := [], out := [], cause := .invalidKey, host := later, delays := s.delays.drop traffic.length
        trace := s.trace ++ [.command 0x5000] ++ trafficEvents traffic ++ [.response 0x8100] }) ∧
    (cbc E s.key s.iv s.msg = .fail .invalidBlockSize →
      ∃ n later, AfterIdles rest later ∧ runWith E n s = .next { s with
        msg := [], out := [], cause := .invalidBlockSize, host := later, delays := s.delays.drop traffic.length
        trace := s.trace ++ [.command 0x5000] ++ trafficEvents traffic ++ [.response 0x8200] })

/-- R263: with a primitive that answers at once, a successful operation on L bytes is busy for exactly 1 + 2 * NBLK
micro-steps, NBLK = L div BSZ + 1. That an answer takes one step is the model's choice (log 5). -/
def Obligations.OperationTakesTwoStepsPerBlock : Prop :=
  ∀ (E : Primitive) (s : State) (rest : List HostMove) (ct : Bytes),
    WellKept s → s.phase = .ready → s.host = .send 0x5000 :: rest → NoResetAhead rest → s.delays = [] →
    cbc E s.key s.iv s.msg = .ok ct →
    (∀ n, 1 ≤ n → n < 2 + 2 * (s.msg.length / s.bsz.toNat + 1) →
      ∃ t, runWith E n s = .next t ∧ t.phase.busy = true) ∧
    ∃ t, runWith E (2 + 2 * (s.msg.length / s.bsz.toNat + 1)) s = .next t ∧ t.phase = .ready ∧ t.out = ct

/-- R265: from any quiescent state, a host that sends any finite sequence of words, legal or not, to a chainer whose
primitive answers every request, has every word accepted in order and answered once, and the chainer ends quiescent. The list of host moves and the list of
delays are the model's choice (log 1, log 5). -/
def Obligations.EveryWordIsAcceptedAndAnswered : Prop :=
  ∀ (E : Primitive) (s : State) (ws : List Word),
    WellKept s → s.phase.busy = false → s.host = ws.map .send → Delay.never ∉ s.delays →
    ∃ n s' added, runWith E n s = .next s' ∧ s'.phase.busy = false ∧ s'.host = [] ∧
      s'.trace = s.trace ++ added ∧ added.filter Event.isCommand = ws.map .command ∧
      added.countP Event.isResponse = ws.length

/-- R174, R173: the ciphertext depends on the primitive, KEY, IV and plaintext alone, not on what was done before nor
on how long the answers took. What is left of the host's moves and the list of delays are the model's choice (log 1,
log 5). -/
def Obligations.CiphertextDependsOnKeyIvAndMessage : Prop :=
  ∀ (E : Primitive) (s t : State) (rest rest' : List HostMove),
    WellKept s → WellKept t → s.phase = .ready → t.phase = .ready →
    s.host = .send 0x5000 :: rest → t.host = .send 0x5000 :: rest' → NoResetAhead rest → NoResetAhead rest' →
    Delay.never ∉ s.delays → Delay.never ∉ t.delays →
    s.key = t.key → s.iv = t.iv → s.msg = t.msg →
    ∃ n m s' t', runWith E (n + 1) s = .next s' ∧ runWith E (m + 1) t = .next t' ∧
      s'.phase = .ready ∧ t'.phase = .ready ∧ AfterIdles rest s'.host ∧ AfterIdles rest' t'.host ∧ s'.out = t'.out ∧
      s'.trace.getLast? = t'.trace.getLast? ∧ ∃ r, s'.trace.getLast? = some (.response r)

/-- R101: the words of NEW, with KEYS and IVS empty and room for the key, construct the encryptor with that key and IV. -/
def Obligations.NewConstructs : Prop :=
  ∀ (E : Primitive) (s : State) (key iv : Bytes) (b : BitVec 8) (rest : List HostMove),
    s.phase.busy = false → s.keys = [] → s.ivs = [] →
    (∀ m, s.params.keyMax = some m → key.length ≤ m) → 1 ≤ iv.length → iv.length = b.toNat →
    s.host = sends (asmNew key iv) ++ rest →
    runWith E (key.length + iv.length + 1) s = .next { s with
      key := key, iv := iv, bsz := b, phase := .ready, host := rest
      trace := s.trace ++ acceptedDone (asmNew key iv) }

/-- R102: the words of ENCRYPT, with MSG empty and room for the plaintext, leave its ciphertext in OUT; meanwhile
the host may idle or offer its next word. What is left of the host's moves and the list of delays are the model's choice
(log 1, log 5). An encryption that fails is in `OperationComputesCbc`. -/
def Obligations.EncryptLeavesTheCiphertext : Prop :=
  ∀ (E : Primitive) (s : State) (pt ct : Bytes) (rest : List HostMove),
    WellKept s → s.phase = .ready → s.msg = [] → (∀ m, s.params.msgMax = some m → pt.length ≤ m) →
    s.host = sends (asmEncrypt pt) ++ rest → NoResetAhead rest → Delay.never ∉ s.delays →
    cbc E s.key s.iv pt = .ok ct →
    ∃ n s', runWith E n s = .next s' ∧ s'.phase = .ready ∧ s'.out = ct ∧ s'.msg = [] ∧ AfterIdles rest s'.host ∧
      s'.key = s.key ∧ s'.iv = s.iv ∧ s'.bsz = s.bsz ∧ s'.cause = s.cause

/-- R103: READ n returns the first n bytes of OUT in order, then EMPTY responses, and removes what it read. -/
def Obligations.ReadReturnsTheBytesInOrder : Prop :=
  ∀ (E : Primitive) (s : State) (n : Nat) (rest : List HostMove),
    s.phase.busy = false → s.host = sends (asmRead n) ++ rest →
    runWith E n s = .next { s with
      out := s.out.drop n, host := rest
      trace := s.trace ++
        (s.out.take n).flatMap (fun d => [Event.command 0x6000, .response (d.setWidth 16)]) ++
        (List.replicate (n - s.out.length) [Event.command 0x6000, .response 0x4000]).flatten }

/-- R100: the assembler's examples. -/
def Obligations.AssemblerExamples : Prop :=
  (asmLine "KEYB 0x2B".toList).map (·.map encode) = some [0x102B] ∧
  (asmLine "IVB 0".toList).map (·.map encode) = some [0x2000] ∧
  (asmLine "INIT".toList).map (·.map encode) = some [0x3000] ∧
  (asmLine "PTB 0x61".toList).map (·.map encode) = some [0x4061] ∧
  (asmLine "ENC".toList).map (·.map encode) = some [0x5000] ∧
  (asmLine "RDB".toList).map (·.map encode) = some [0x6000] ∧
  (asmLine "RDS 0x02".toList).map (·.map encode) = some [0x7002] ∧
  (asmLine "CLR 0x3F".toList).map (·.map encode) = some [0x803F] ∧
  (asmLine "NOP".toList).map (·.map encode) = some [0x0000]
end

