-- ==== Sys2Proof/Laws/State.lean ====
section
/-! SUPPORT. One lemma per field per named update of the state, each true by `rfl`, so that no proof unfolds an update. -/

namespace Sys2Proof.Machine

/-! ## `State.record` -/

@[simp] theorem record_key (s : State) (e : Event) : (s.record e).key = s.key := rfl
@[simp] theorem record_iv (s : State) (e : Event) : (s.record e).iv = s.iv := rfl
@[simp] theorem record_bsz (s : State) (e : Event) : (s.record e).bsz = s.bsz := rfl
@[simp] theorem record_keys (s : State) (e : Event) : (s.record e).keys = s.keys := rfl
@[simp] theorem record_ivs (s : State) (e : Event) : (s.record e).ivs = s.ivs := rfl
@[simp] theorem record_msg (s : State) (e : Event) : (s.record e).msg = s.msg := rfl
@[simp] theorem record_pbuf (s : State) (e : Event) : (s.record e).pbuf = s.pbuf := rfl
@[simp] theorem record_idx (s : State) (e : Event) : (s.record e).idx = s.idx := rfl
@[simp] theorem record_nblk (s : State) (e : Event) : (s.record e).nblk = s.nblk := rfl
@[simp] theorem record_prev (s : State) (e : Event) : (s.record e).prev = s.prev := rfl
@[simp] theorem record_mix (s : State) (e : Event) : (s.record e).mix = s.mix := rfl
@[simp] theorem record_req (s : State) (e : Event) : (s.record e).req = s.req := rfl
@[simp] theorem record_out (s : State) (e : Event) : (s.record e).out = s.out := rfl
@[simp] theorem record_phase (s : State) (e : Event) : (s.record e).phase = s.phase := rfl
@[simp] theorem record_cause (s : State) (e : Event) : (s.record e).cause = s.cause := rfl
@[simp] theorem record_params (s : State) (e : Event) : (s.record e).params = s.params := rfl
@[simp] theorem record_host (s : State) (e : Event) : (s.record e).host = s.host := rfl
@[simp] theorem record_delays (s : State) (e : Event) : (s.record e).delays = s.delays := rfl
@[simp] theorem record_trace (s : State) (e : Event) : (s.record e).trace = s.trace ++ [e] := rfl

/-! ## `respond` -/

@[simp] theorem respond_key (f e : Bool) (c : Cause) (d : Byte) (s : State) : (respond f e c d s).key = s.key := rfl
@[simp] theorem respond_iv (f e : Bool) (c : Cause) (d : Byte) (s : State) : (respond f e c d s).iv = s.iv := rfl
@[simp] theorem respond_bsz (f e : Bool) (c : Cause) (d : Byte) (s : State) : (respond f e c d s).bsz = s.bsz := rfl
@[simp] theorem respond_keys (f e : Bool) (c : Cause) (d : Byte) (s : State) : (respond f e c d s).keys = s.keys := rfl
@[simp] theorem respond_ivs (f e : Bool) (c : Cause) (d : Byte) (s : State) : (respond f e c d s).ivs = s.ivs := rfl
@[simp] theorem respond_msg (f e : Bool) (c : Cause) (d : Byte) (s : State) : (respond f e c d s).msg = s.msg := rfl
@[simp] theorem respond_pbuf (f e : Bool) (c : Cause) (d : Byte) (s : State) : (respond f e c d s).pbuf = s.pbuf := rfl
@[simp] theorem respond_idx (f e : Bool) (c : Cause) (d : Byte) (s : State) : (respond f e c d s).idx = s.idx := rfl
@[simp] theorem respond_nblk (f e : Bool) (c : Cause) (d : Byte) (s : State) : (respond f e c d s).nblk = s.nblk := rfl
@[simp] theorem respond_prev (f e : Bool) (c : Cause) (d : Byte) (s : State) : (respond f e c d s).prev = s.prev := rfl
@[simp] theorem respond_mix (f e : Bool) (c : Cause) (d : Byte) (s : State) : (respond f e c d s).mix = s.mix := rfl
@[simp] theorem respond_req (f e : Bool) (c : Cause) (d : Byte) (s : State) : (respond f e c d s).req = s.req := rfl
@[simp] theorem respond_out (f e : Bool) (c : Cause) (d : Byte) (s : State) : (respond f e c d s).out = s.out := rfl
@[simp] theorem respond_phase (f e : Bool) (c : Cause) (d : Byte) (s : State) : (respond f e c d s).phase = s.phase := rfl
@[simp] theorem respond_cause (f e : Bool) (c : Cause) (d : Byte) (s : State) : (respond f e c d s).cause = s.cause := rfl
@[simp] theorem respond_params (f e : Bool) (c : Cause) (d : Byte) (s : State) : (respond f e c d s).params = s.params := rfl
@[simp] theorem respond_host (f e : Bool) (c : Cause) (d : Byte) (s : State) : (respond f e c d s).host = s.host := rfl
@[simp] theorem respond_delays (f e : Bool) (c : Cause) (d : Byte) (s : State) : (respond f e c d s).delays = s.delays := rfl
@[simp] theorem respond_trace (f e : Bool) (c : Cause) (d : Byte) (s : State) : (respond f e c d s).trace = s.trace ++ [.response (responseWord f e c d)] := rfl

/-! ## `respondDone` -/

@[simp] theorem respondDone_key (s : State) : (respondDone s).key = s.key := rfl
@[simp] theorem respondDone_iv (s : State) : (respondDone s).iv = s.iv := rfl
@[simp] theorem respondDone_bsz (s : State) : (respondDone s).bsz = s.bsz := rfl
@[simp] theorem respondDone_keys (s : State) : (respondDone s).keys = s.keys := rfl
@[simp] theorem respondDone_ivs (s : State) : (respondDone s).ivs = s.ivs := rfl
@[simp] theorem respondDone_msg (s : State) : (respondDone s).msg = s.msg := rfl
@[simp] theorem respondDone_pbuf (s : State) : (respondDone s).pbuf = s.pbuf := rfl
@[simp] theorem respondDone_idx (s : State) : (respondDone s).idx = s.idx := rfl
@[simp] theorem respondDone_nblk (s : State) : (respondDone s).nblk = s.nblk := rfl
@[simp] theorem respondDone_prev (s : State) : (respondDone s).prev = s.prev := rfl
@[simp] theorem respondDone_mix (s : State) : (respondDone s).mix = s.mix := rfl
@[simp] theorem respondDone_req (s : State) : (respondDone s).req = s.req := rfl
@[simp] theorem respondDone_out (s : State) : (respondDone s).out = s.out := rfl
@[simp] theorem respondDone_phase (s : State) : (respondDone s).phase = s.phase := rfl
@[simp] theorem respondDone_cause (s : State) : (respondDone s).cause = s.cause := rfl
@[simp] theorem respondDone_params (s : State) : (respondDone s).params = s.params := rfl
@[simp] theorem respondDone_host (s : State) : (respondDone s).host = s.host := rfl
@[simp] theorem respondDone_delays (s : State) : (respondDone s).delays = s.delays := rfl
@[simp] theorem respondDone_trace (s : State) : (respondDone s).trace = s.trace ++ [.response 0x0000#16] := rfl

/-! ## `commandFault` -/

@[simp] theorem commandFault_key (c : Cause) (s : State) : (commandFault c s).key = s.key := rfl
@[simp] theorem commandFault_iv (c : Cause) (s : State) : (commandFault c s).iv = s.iv := rfl
@[simp] theorem commandFault_bsz (c : Cause) (s : State) : (commandFault c s).bsz = s.bsz := rfl
@[simp] theorem commandFault_keys (c : Cause) (s : State) : (commandFault c s).keys = s.keys := rfl
@[simp] theorem commandFault_ivs (c : Cause) (s : State) : (commandFault c s).ivs = s.ivs := rfl
@[simp] theorem commandFault_msg (c : Cause) (s : State) : (commandFault c s).msg = s.msg := rfl
@[simp] theorem commandFault_pbuf (c : Cause) (s : State) : (commandFault c s).pbuf = s.pbuf := rfl
@[simp] theorem commandFault_idx (c : Cause) (s : State) : (commandFault c s).idx = s.idx := rfl
@[simp] theorem commandFault_nblk (c : Cause) (s : State) : (commandFault c s).nblk = s.nblk := rfl
@[simp] theorem commandFault_prev (c : Cause) (s : State) : (commandFault c s).prev = s.prev := rfl
@[simp] theorem commandFault_mix (c : Cause) (s : State) : (commandFault c s).mix = s.mix := rfl
@[simp] theorem commandFault_req (c : Cause) (s : State) : (commandFault c s).req = s.req := rfl
@[simp] theorem commandFault_out (c : Cause) (s : State) : (commandFault c s).out = s.out := rfl
@[simp] theorem commandFault_phase (c : Cause) (s : State) : (commandFault c s).phase = s.phase := rfl
@[simp] theorem commandFault_cause (c : Cause) (s : State) : (commandFault c s).cause = c := rfl
@[simp] theorem commandFault_params (c : Cause) (s : State) : (commandFault c s).params = s.params := rfl
@[simp] theorem commandFault_host (c : Cause) (s : State) : (commandFault c s).host = s.host := rfl
@[simp] theorem commandFault_delays (c : Cause) (s : State) : (commandFault c s).delays = s.delays := rfl
@[simp] theorem commandFault_trace (c : Cause) (s : State) : (commandFault c s).trace = s.trace ++ [.response (responseWord true false c 0#8)] := rfl

/-! ## `idleHidden` -/

@[simp] theorem idleHidden_key (s : State) : (idleHidden s).key = s.key := rfl
@[simp] theorem idleHidden_iv (s : State) : (idleHidden s).iv = s.iv := rfl
@[simp] theorem idleHidden_bsz (s : State) : (idleHidden s).bsz = s.bsz := rfl
@[simp] theorem idleHidden_keys (s : State) : (idleHidden s).keys = s.keys := rfl
@[simp] theorem idleHidden_ivs (s : State) : (idleHidden s).ivs = s.ivs := rfl
@[simp] theorem idleHidden_msg (s : State) : (idleHidden s).msg = s.msg := rfl
@[simp] theorem idleHidden_pbuf (s : State) : (idleHidden s).pbuf = [] := rfl
@[simp] theorem idleHidden_idx (s : State) : (idleHidden s).idx = 0 := rfl
@[simp] theorem idleHidden_nblk (s : State) : (idleHidden s).nblk = 0 := rfl
@[simp] theorem idleHidden_prev (s : State) : (idleHidden s).prev = none := rfl
@[simp] theorem idleHidden_mix (s : State) : (idleHidden s).mix = none := rfl
@[simp] theorem idleHidden_req (s : State) : (idleHidden s).req = none := rfl
@[simp] theorem idleHidden_out (s : State) : (idleHidden s).out = s.out := rfl
@[simp] theorem idleHidden_phase (s : State) : (idleHidden s).phase = .ready := rfl
@[simp] theorem idleHidden_cause (s : State) : (idleHidden s).cause = s.cause := rfl
@[simp] theorem idleHidden_params (s : State) : (idleHidden s).params = s.params := rfl
@[simp] theorem idleHidden_host (s : State) : (idleHidden s).host = s.host := rfl
@[simp] theorem idleHidden_delays (s : State) : (idleHidden s).delays = s.delays := rfl
@[simp] theorem idleHidden_trace (s : State) : (idleHidden s).trace = s.trace := rfl

/-! ## `endOk` -/

@[simp] theorem endOk_key (s : State) : (endOk s).key = s.key := rfl
@[simp] theorem endOk_iv (s : State) : (endOk s).iv = s.iv := rfl
@[simp] theorem endOk_bsz (s : State) : (endOk s).bsz = s.bsz := rfl
@[simp] theorem endOk_keys (s : State) : (endOk s).keys = s.keys := rfl
@[simp] theorem endOk_ivs (s : State) : (endOk s).ivs = s.ivs := rfl
@[simp] theorem endOk_msg (s : State) : (endOk s).msg = s.msg := rfl
@[simp] theorem endOk_pbuf (s : State) : (endOk s).pbuf = [] := rfl
@[simp] theorem endOk_idx (s : State) : (endOk s).idx = 0 := rfl
@[simp] theorem endOk_nblk (s : State) : (endOk s).nblk = 0 := rfl
@[simp] theorem endOk_prev (s : State) : (endOk s).prev = none := rfl
@[simp] theorem endOk_mix (s : State) : (endOk s).mix = none := rfl
@[simp] theorem endOk_req (s : State) : (endOk s).req = none := rfl
@[simp] theorem endOk_out (s : State) : (endOk s).out = s.out := rfl
@[simp] theorem endOk_phase (s : State) : (endOk s).phase = .ready := rfl
@[simp] theorem endOk_cause (s : State) : (endOk s).cause = s.cause := rfl
@[simp] theorem endOk_params (s : State) : (endOk s).params = s.params := rfl
@[simp] theorem endOk_host (s : State) : (endOk s).host = s.host := rfl
@[simp] theorem endOk_delays (s : State) : (endOk s).delays = s.delays := rfl
@[simp] theorem endOk_trace (s : State) : (endOk s).trace = s.trace ++ [.response 0x0000#16] := rfl

/-! ## `endFail` -/

@[simp] theorem endFail_key (e : PrimError) (s : State) : (endFail e s).key = s.key := rfl
@[simp] theorem endFail_iv (e : PrimError) (s : State) : (endFail e s).iv = s.iv := rfl
@[simp] theorem endFail_bsz (e : PrimError) (s : State) : (endFail e s).bsz = s.bsz := rfl
@[simp] theorem endFail_keys (e : PrimError) (s : State) : (endFail e s).keys = s.keys := rfl
@[simp] theorem endFail_ivs (e : PrimError) (s : State) : (endFail e s).ivs = s.ivs := rfl
@[simp] theorem endFail_msg (e : PrimError) (s : State) : (endFail e s).msg = s.msg := rfl
@[simp] theorem endFail_pbuf (e : PrimError) (s : State) : (endFail e s).pbuf = [] := rfl
@[simp] theorem endFail_idx (e : PrimError) (s : State) : (endFail e s).idx = 0 := rfl
@[simp] theorem endFail_nblk (e : PrimError) (s : State) : (endFail e s).nblk = 0 := rfl
@[simp] theorem endFail_prev (e : PrimError) (s : State) : (endFail e s).prev = none := rfl
@[simp] theorem endFail_mix (e : PrimError) (s : State) : (endFail e s).mix = none := rfl
@[simp] theorem endFail_req (e : PrimError) (s : State) : (endFail e s).req = none := rfl
@[simp] theorem endFail_out (e : PrimError) (s : State) : (endFail e s).out = [] := rfl
@[simp] theorem endFail_phase (e : PrimError) (s : State) : (endFail e s).phase = .ready := rfl
@[simp] theorem endFail_cause (e : PrimError) (s : State) : (endFail e s).cause = primCause e := rfl
@[simp] theorem endFail_params (e : PrimError) (s : State) : (endFail e s).params = s.params := rfl
@[simp] theorem endFail_host (e : PrimError) (s : State) : (endFail e s).host = s.host := rfl
@[simp] theorem endFail_delays (e : PrimError) (s : State) : (endFail e s).delays = s.delays := rfl
@[simp] theorem endFail_trace (e : PrimError) (s : State) : (endFail e s).trace = s.trace ++ [.response (responseWord true false (primCause e) 0#8)] := rfl

/-! ## `construct` -/

@[simp] theorem construct_key (s : State) : (construct s).key = s.keys := rfl
@[simp] theorem construct_iv (s : State) : (construct s).iv = s.ivs := rfl
@[simp] theorem construct_bsz (s : State) : (construct s).bsz = BitVec.ofNat 8 s.ivs.length := rfl
@[simp] theorem construct_keys (s : State) : (construct s).keys = [] := rfl
@[simp] theorem construct_ivs (s : State) : (construct s).ivs = [] := rfl
@[simp] theorem construct_msg (s : State) : (construct s).msg = s.msg := rfl
@[simp] theorem construct_pbuf (s : State) : (construct s).pbuf = s.pbuf := rfl
@[simp] theorem construct_idx (s : State) : (construct s).idx = s.idx := rfl
@[simp] theorem construct_nblk (s : State) : (construct s).nblk = s.nblk := rfl
@[simp] theorem construct_prev (s : State) : (construct s).prev = s.prev := rfl
@[simp] theorem construct_mix (s : State) : (construct s).mix = s.mix := rfl
@[simp] theorem construct_req (s : State) : (construct s).req = s.req := rfl
@[simp] theorem construct_out (s : State) : (construct s).out = s.out := rfl
@[simp] theorem construct_phase (s : State) : (construct s).phase = .ready := rfl
@[simp] theorem construct_cause (s : State) : (construct s).cause = s.cause := rfl
@[simp] theorem construct_params (s : State) : (construct s).params = s.params := rfl
@[simp] theorem construct_host (s : State) : (construct s).host = s.host := rfl
@[simp] theorem construct_delays (s : State) : (construct s).delays = s.delays := rfl
@[simp] theorem construct_trace (s : State) : (construct s).trace = s.trace := rfl

/-! ## `startOperation` -/

@[simp] theorem startOperation_key (s : State) : (startOperation s).key = s.key := rfl
@[simp] theorem startOperation_iv (s : State) : (startOperation s).iv = s.iv := rfl
@[simp] theorem startOperation_bsz (s : State) : (startOperation s).bsz = s.bsz := rfl
@[simp] theorem startOperation_keys (s : State) : (startOperation s).keys = s.keys := rfl
@[simp] theorem startOperation_ivs (s : State) : (startOperation s).ivs = s.ivs := rfl
@[simp] theorem startOperation_msg (s : State) : (startOperation s).msg = [] := rfl
@[simp] theorem startOperation_pbuf (s : State) : (startOperation s).pbuf = s.msg := rfl
@[simp] theorem startOperation_idx (s : State) : (startOperation s).idx = s.idx := rfl
@[simp] theorem startOperation_nblk (s : State) : (startOperation s).nblk = s.nblk := rfl
@[simp] theorem startOperation_prev (s : State) : (startOperation s).prev = s.prev := rfl
@[simp] theorem startOperation_mix (s : State) : (startOperation s).mix = s.mix := rfl
@[simp] theorem startOperation_req (s : State) : (startOperation s).req = s.req := rfl
@[simp] theorem startOperation_out (s : State) : (startOperation s).out = [] := rfl
@[simp] theorem startOperation_phase (s : State) : (startOperation s).phase = .pad := rfl
@[simp] theorem startOperation_cause (s : State) : (startOperation s).cause = s.cause := rfl
@[simp] theorem startOperation_params (s : State) : (startOperation s).params = s.params := rfl
@[simp] theorem startOperation_host (s : State) : (startOperation s).host = s.host := rfl
@[simp] theorem startOperation_delays (s : State) : (startOperation s).delays = s.delays := rfl
@[simp] theorem startOperation_trace (s : State) : (startOperation s).trace = s.trace := rfl

/-! ## `sendRequest` -/

@[simp] theorem sendRequest_key (m : Bytes) (s : State) : (sendRequest m s).key = s.key := rfl
@[simp] theorem sendRequest_iv (m : Bytes) (s : State) : (sendRequest m s).iv = s.iv := rfl
@[simp] theorem sendRequest_bsz (m : Bytes) (s : State) : (sendRequest m s).bsz = s.bsz := rfl
@[simp] theorem sendRequest_keys (m : Bytes) (s : State) : (sendRequest m s).keys = s.keys := rfl
@[simp] theorem sendRequest_ivs (m : Bytes) (s : State) : (sendRequest m s).ivs = s.ivs := rfl
@[simp] theorem sendRequest_msg (m : Bytes) (s : State) : (sendRequest m s).msg = s.msg := rfl
@[simp] theorem sendRequest_pbuf (m : Bytes) (s : State) : (sendRequest m s).pbuf = s.pbuf := rfl
@[simp] theorem sendRequest_idx (m : Bytes) (s : State) : (sendRequest m s).idx = s.idx := rfl
@[simp] theorem sendRequest_nblk (m : Bytes) (s : State) : (sendRequest m s).nblk = s.nblk := rfl
@[simp] theorem sendRequest_prev (m : Bytes) (s : State) : (sendRequest m s).prev = s.prev := rfl
@[simp] theorem sendRequest_mix (m : Bytes) (s : State) : (sendRequest m s).mix = some m := rfl
@[simp] theorem sendRequest_req (m : Bytes) (s : State) : (sendRequest m s).req = some ⟨s.key, m⟩ := rfl
@[simp] theorem sendRequest_out (m : Bytes) (s : State) : (sendRequest m s).out = s.out := rfl
@[simp] theorem sendRequest_phase (m : Bytes) (s : State) : (sendRequest m s).phase = .cipher := rfl
@[simp] theorem sendRequest_cause (m : Bytes) (s : State) : (sendRequest m s).cause = s.cause := rfl
@[simp] theorem sendRequest_params (m : Bytes) (s : State) : (sendRequest m s).params = s.params := rfl
@[simp] theorem sendRequest_host (m : Bytes) (s : State) : (sendRequest m s).host = s.host := rfl
@[simp] theorem sendRequest_delays (m : Bytes) (s : State) : (sendRequest m s).delays = s.delays := rfl
@[simp] theorem sendRequest_trace (m : Bytes) (s : State) : (sendRequest m s).trace = s.trace ++ [.request ⟨s.key, m⟩] := rfl

/-! ## `applyReset` -/

@[simp] theorem applyReset_key (s : State) : (applyReset s).key = [] := rfl
@[simp] theorem applyReset_iv (s : State) : (applyReset s).iv = [] := rfl
@[simp] theorem applyReset_bsz (s : State) : (applyReset s).bsz = 0 := rfl
@[simp] theorem applyReset_keys (s : State) : (applyReset s).keys = [] := rfl
@[simp] theorem applyReset_ivs (s : State) : (applyReset s).ivs = [] := rfl
@[simp] theorem applyReset_msg (s : State) : (applyReset s).msg = [] := rfl
@[simp] theorem applyReset_pbuf (s : State) : (applyReset s).pbuf = [] := rfl
@[simp] theorem applyReset_idx (s : State) : (applyReset s).idx = 0 := rfl
@[simp] theorem applyReset_nblk (s : State) : (applyReset s).nblk = 0 := rfl
@[simp] theorem applyReset_prev (s : State) : (applyReset s).prev = none := rfl
@[simp] theorem applyReset_mix (s : State) : (applyReset s).mix = none := rfl
@[simp] theorem applyReset_req (s : State) : (applyReset s).req = none := rfl
@[simp] theorem applyReset_out (s : State) : (applyReset s).out = [] := rfl
@[simp] theorem applyReset_phase (s : State) : (applyReset s).phase = .unconf := rfl
@[simp] theorem applyReset_cause (s : State) : (applyReset s).cause = .none := rfl
@[simp] theorem applyReset_params (s : State) : (applyReset s).params = s.params := rfl
@[simp] theorem applyReset_host (s : State) : (applyReset s).host = s.host := rfl
@[simp] theorem applyReset_delays (s : State) : (applyReset s).delays = delaysAfterReset s := rfl
@[simp] theorem applyReset_trace (s : State) : (applyReset s).trace = s.trace ++ [.reset] := rfl

/-! ## `clearItems` -/

@[simp] theorem clearItems_key (m : ClearMask) (s : State) : (clearItems m s).key = s.key := rfl
@[simp] theorem clearItems_iv (m : ClearMask) (s : State) : (clearItems m s).iv = s.iv := rfl
@[simp] theorem clearItems_bsz (m : ClearMask) (s : State) : (clearItems m s).bsz = s.bsz := rfl
@[simp] theorem clearItems_keys (m : ClearMask) (s : State) : (clearItems m s).keys = if m.keys then [] else s.keys := rfl
@[simp] theorem clearItems_ivs (m : ClearMask) (s : State) : (clearItems m s).ivs = if m.ivs then [] else s.ivs := rfl
@[simp] theorem clearItems_msg (m : ClearMask) (s : State) : (clearItems m s).msg = if m.msg then [] else s.msg := rfl
@[simp] theorem clearItems_pbuf (m : ClearMask) (s : State) : (clearItems m s).pbuf = s.pbuf := rfl
@[simp] theorem clearItems_idx (m : ClearMask) (s : State) : (clearItems m s).idx = s.idx := rfl
@[simp] theorem clearItems_nblk (m : ClearMask) (s : State) : (clearItems m s).nblk = s.nblk := rfl
@[simp] theorem clearItems_prev (m : ClearMask) (s : State) : (clearItems m s).prev = s.prev := rfl
@[simp] theorem clearItems_mix (m : ClearMask) (s : State) : (clearItems m s).mix = s.mix := rfl
@[simp] theorem clearItems_req (m : ClearMask) (s : State) : (clearItems m s).req = s.req := rfl
@[simp] theorem clearItems_out (m : ClearMask) (s : State) : (clearItems m s).out = if m.out then [] else s.out := rfl
@[simp] theorem clearItems_phase (m : ClearMask) (s : State) : (clearItems m s).phase = s.phase := rfl
@[simp] theorem clearItems_cause (m : ClearMask) (s : State) : (clearItems m s).cause = if m.cause then .none else s.cause := rfl
@[simp] theorem clearItems_params (m : ClearMask) (s : State) : (clearItems m s).params = s.params := rfl
@[simp] theorem clearItems_host (m : ClearMask) (s : State) : (clearItems m s).host = s.host := rfl
@[simp] theorem clearItems_delays (m : ClearMask) (s : State) : (clearItems m s).delays = s.delays := rfl
@[simp] theorem clearItems_trace (m : ClearMask) (s : State) : (clearItems m s).trace = s.trace := rfl

/-! ## `clearEncryptor`, by whether the bit is set -/

@[simp] theorem clearEncryptor_key (m : ClearMask) (s : State) :
    (clearEncryptor m s).key = if m.encryptor then [] else s.key := by
  unfold clearEncryptor; split <;> rfl
@[simp] theorem clearEncryptor_iv (m : ClearMask) (s : State) :
    (clearEncryptor m s).iv = if m.encryptor then [] else s.iv := by
  unfold clearEncryptor; split <;> rfl
@[simp] theorem clearEncryptor_bsz (m : ClearMask) (s : State) :
    (clearEncryptor m s).bsz = if m.encryptor then 0 else s.bsz := by
  unfold clearEncryptor; split <;> rfl
@[simp] theorem clearEncryptor_keys (m : ClearMask) (s : State) : (clearEncryptor m s).keys = s.keys := by
  unfold clearEncryptor; split <;> rfl
@[simp] theorem clearEncryptor_ivs (m : ClearMask) (s : State) : (clearEncryptor m s).ivs = s.ivs := by
  unfold clearEncryptor; split <;> rfl
@[simp] theorem clearEncryptor_msg (m : ClearMask) (s : State) : (clearEncryptor m s).msg = s.msg := by
  unfold clearEncryptor; split <;> rfl
@[simp] theorem clearEncryptor_pbuf (m : ClearMask) (s : State) : (clearEncryptor m s).pbuf = s.pbuf := by
  unfold clearEncryptor; split <;> rfl
@[simp] theorem clearEncryptor_idx (m : ClearMask) (s : State) : (clearEncryptor m s).idx = s.idx := by
  unfold clearEncryptor; split <;> rfl
@[simp] theorem clearEncryptor_nblk (m : ClearMask) (s : State) : (clearEncryptor m s).nblk = s.nblk := by
  unfold clearEncryptor; split <;> rfl
@[simp] theorem clearEncryptor_prev (m : ClearMask) (s : State) : (clearEncryptor m s).prev = s.prev := by
  unfold clearEncryptor; split <;> rfl
@[simp] theorem clearEncryptor_mix (m : ClearMask) (s : State) : (clearEncryptor m s).mix = s.mix := by
  unfold clearEncryptor; split <;> rfl
@[simp] theorem clearEncryptor_req (m : ClearMask) (s : State) : (clearEncryptor m s).req = s.req := by
  unfold clearEncryptor; split <;> rfl
@[simp] theorem clearEncryptor_out (m : ClearMask) (s : State) : (clearEncryptor m s).out = s.out := by
  unfold clearEncryptor; split <;> rfl
@[simp] theorem clearEncryptor_phase (m : ClearMask) (s : State) :
    (clearEncryptor m s).phase = if m.encryptor then .unconf else s.phase := by
  unfold clearEncryptor; split <;> rfl
@[simp] theorem clearEncryptor_cause (m : ClearMask) (s : State) : (clearEncryptor m s).cause = s.cause := by
  unfold clearEncryptor; split <;> rfl
@[simp] theorem clearEncryptor_params (m : ClearMask) (s : State) : (clearEncryptor m s).params = s.params := by
  unfold clearEncryptor; split <;> rfl
@[simp] theorem clearEncryptor_host (m : ClearMask) (s : State) : (clearEncryptor m s).host = s.host := by
  unfold clearEncryptor; split <;> rfl
@[simp] theorem clearEncryptor_delays (m : ClearMask) (s : State) : (clearEncryptor m s).delays = s.delays := by
  unfold clearEncryptor; split <;> rfl
@[simp] theorem clearEncryptor_trace (m : ClearMask) (s : State) : (clearEncryptor m s).trace = s.trace := by
  unfold clearEncryptor; split <;> rfl

end Sys2Proof.Machine
end

