-- ==== Sys2Proof/Laws/Ops.lean ====
section
/-! SUPPORT. What each shared operation answers, once; the response words of R96; the form of the buffers. -/

namespace Sys2Proof.Machine

/-! ## Response words -/

@[simp] theorem responseWord_done : responseWord false false .none 0#8 = 0x0000#16 := by decide
@[simp] theorem responseWord_empty : responseWord false true .none 0#8 = 0x4000#16 := by decide
@[simp] theorem responseWord_invalidKey : responseWord true false .invalidKey 0#8 = 0x8100#16 := by decide
@[simp] theorem responseWord_invalidBlockSize : responseWord true false .invalidBlockSize 0#8 = 0x8200#16 := by decide
@[simp] theorem responseWord_illegalCommand : responseWord true false .illegalCommand 0#8 = 0x8300#16 := by decide
@[simp] theorem responseWord_notConfigured : responseWord true false .notConfigured 0#8 = 0x8400#16 := by decide
@[simp] theorem responseWord_capacity : responseWord true false .capacity 0#8 = 0x8500#16 := by decide

/-- A successful response carries its byte zero-extended. -/
@[simp] theorem responseWord_data (d : Byte) : responseWord false false .none d = d.setWidth 16 := by
  revert d; decide

/-- A fault response is `0x8000 | (code << 8)`. -/
theorem responseWord_fault (c : Cause) :
    responseWord true false c 0#8 = 0x8000 ||| (c.code.setWidth 16 <<< 8) := by
  cases c <;> decide

/-- Every fault response has ERRF set. -/
theorem responseWord_fault_errf (c : Cause) : (responseWord true false c 0#8).getLsbD 15 = true := by
  cases c <;> decide

/-- No successful response has ERRF set. -/
theorem responseWord_data_errf (d : Byte) : (d.setWidth 16 : Word).getLsbD 15 = false := by
  simp

@[simp] theorem primCause_ne_none (e : PrimError) : primCause e ≠ .none := by cases e <;> decide

/-! ## Buffers -/

theorem appendByte_eq_some {cap : Option Nat} {buf buf' : Bytes} {b : Byte} :
    appendByte cap buf b = some buf' ↔ full cap buf = false ∧ buf' = buf ++ [b] := by
  unfold appendByte
  cases full cap buf <;> simp [eq_comm]

theorem appendByte_eq_none {cap : Option Nat} {buf : Bytes} {b : Byte} :
    appendByte cap buf b = none ↔ full cap buf = true := by
  unfold appendByte
  cases full cap buf <;> simp

theorem full_eq_false {cap : Option Nat} {buf : Bytes} :
    full cap buf = false ↔ ∀ m, cap = some m → buf.length < m := by
  cases cap <;> simp [full]

theorem full_eq_true {cap : Option Nat} {buf : Bytes} :
    full cap buf = true ↔ ∃ m, cap = some m ∧ m ≤ buf.length := by
  cases cap <;> simp [full]

theorem fits_iff {cap : Option Nat} {buf : Bytes} :
    fits cap buf = true ↔ ∀ m, cap = some m → buf.length ≤ m := by
  cases cap <;> simp [fits]

@[simp] theorem fits_nil (cap : Option Nat) : fits cap [] = true := by
  cases cap <;> simp [fits]

/-- Appending keeps a buffer within its capacity. -/
theorem appendByte_fits {cap : Option Nat} {buf buf' : Bytes} {b : Byte}
    (h : appendByte cap buf b = some buf') : fits cap buf' = true := by
  obtain ⟨hf, rfl⟩ := appendByte_eq_some.1 h
  rw [fits_iff]
  intro m hm
  have := full_eq_false.1 hf m hm
  simp; omega

@[simp] theorem slice_length (s : Bytes) (off n : Nat) : (slice s off n).length = min n (s.length - off) := by
  simp [slice]

theorem memRead_eq_some {buf blk : Bytes} {off n : Nat} :
    memRead buf off n = some blk ↔ off + n ≤ buf.length ∧ blk = slice buf off n := by
  unfold memRead; split <;> simp_all [eq_comm]

theorem memRead_eq_none {buf : Bytes} {off n : Nat} : memRead buf off n = none ↔ buf.length < off + n := by
  unfold memRead; split <;> simp_all

/-- A block that was read has the width asked for. -/
theorem memRead_length {buf blk : Bytes} {off n : Nat} (h : memRead buf off n = some blk) : blk.length = n := by
  obtain ⟨h, rfl⟩ := memRead_eq_some.1 h
  simp; omega

theorem xorBytes_eq_some {a b c : Bytes} :
    xorBytes a b = some c ↔ a.length = b.length ∧ c = List.zipWith (fun x y => x ^^^ y) a b := by
  unfold xorBytes; split <;> simp_all [eq_comm]

theorem xorBytes_eq_none {a b : Bytes} : xorBytes a b = none ↔ a.length ≠ b.length := by
  unfold xorBytes; split <;> simp_all

theorem xorBytes_length {a b c : Bytes} (h : xorBytes a b = some c) : c.length = a.length ∧ c.length = b.length := by
  obtain ⟨h, rfl⟩ := xorBytes_eq_some.1 h
  simp; omega

/-! ## The form of the buffers, kept by every operation -/

theorem wf_iff {s : State} : Memory.wf s = true ↔
    fits s.params.keyMax s.keys = true ∧ fits (some ivsMax) s.ivs = true ∧ fits s.params.msgMax s.msg = true := by
  simp [Memory.wf, and_assoc]

/-- The form depends on the three staging buffers and the capacities alone. -/
theorem wf_congr {s t : State} (hk : t.keys = s.keys) (hi : t.ivs = s.ivs) (hm : t.msg = s.msg)
    (hp : t.params = s.params) : Memory.wf t = Memory.wf s := by
  simp [Memory.wf, hk, hi, hm, hp]

@[simp] theorem wf_reset : Memory.wf State.reset = true := by decide

@[simp] theorem wf_record (s : State) (e : Event) : Memory.wf (s.record e) = Memory.wf s := rfl
@[simp] theorem wf_respond (f e : Bool) (c : Cause) (d : Byte) (s : State) :
    Memory.wf (respond f e c d s) = Memory.wf s := rfl
@[simp] theorem wf_respondDone (s : State) : Memory.wf (respondDone s) = Memory.wf s := rfl
@[simp] theorem wf_commandFault (c : Cause) (s : State) : Memory.wf (commandFault c s) = Memory.wf s := rfl
@[simp] theorem wf_endOk (s : State) : Memory.wf (endOk s) = Memory.wf s := rfl
@[simp] theorem wf_endFail (e : PrimError) (s : State) : Memory.wf (endFail e s) = Memory.wf s := rfl
@[simp] theorem wf_sendRequest (m : Bytes) (s : State) : Memory.wf (sendRequest m s) = Memory.wf s := rfl
@[simp] theorem wf_applyReset (s : State) : Memory.wf (applyReset s) = true := by simp [wf_iff]
@[simp] theorem wf_clearEncryptor (m : ClearMask) (s : State) :
    Memory.wf (clearEncryptor m s) = Memory.wf s := by simp [Memory.wf]

theorem wf_construct {s : State} (h : Memory.wf s = true) : Memory.wf (construct s) = true := by
  simp_all [wf_iff]

theorem wf_startOperation {s : State} (h : Memory.wf s = true) : Memory.wf (startOperation s) = true := by
  simp_all [wf_iff]

theorem wf_clearItems {s : State} (m : ClearMask) (h : Memory.wf s = true) : Memory.wf (clearItems m s) = true := by
  rw [wf_iff] at *
  simp only [clearItems_keys, clearItems_ivs, clearItems_msg, clearItems_params]
  refine ⟨?_, ?_, ?_⟩ <;> split <;> simp_all

theorem wf_takeBlock (c : Bytes) (s : State) : Memory.wf (takeBlock c s) = Memory.wf s := by
  unfold takeBlock; split <;> rfl

theorem wf_takeAnswer (a : Answer) (s : State) : Memory.wf (takeAnswer a s) = Memory.wf s := by
  unfold takeAnswer
  split
  · rfl
  · split
    · exact wf_takeBlock _ _
    · rfl

end Sys2Proof.Machine
end

