-- ==== Sys2Proof/Laws/Exec.lean ====
section
/-! SUPPORT. What each command can do, once: if its meaning answers `next s'`, then one of these cases holds. -/

namespace Sys2Proof.Machine

variable {s s' : State} {imm sel mask : Byte}

theorem execNop_next : execNop s = .next s' ↔ s' = respondDone s := by
  simp [execNop, eq_comm]

theorem execKeyb_next : execKeyb imm s = .next s' ↔
    (full s.params.keyMax s.keys = true ∧ s' = commandFault .capacity s) ∨
    (full s.params.keyMax s.keys = false ∧ s' = respondDone { s with keys := s.keys ++ [imm] }) := by
  unfold execKeyb
  cases h : appendByte s.params.keyMax s.keys imm with
  | none => simp [appendByte_eq_none.1 h, eq_comm]
  | some buf => obtain ⟨hf, rfl⟩ := appendByte_eq_some.1 h; simp [hf, eq_comm]

theorem execIvb_next : execIvb imm s = .next s' ↔
    (full (some ivsMax) s.ivs = true ∧ s' = commandFault .capacity s) ∨
    (full (some ivsMax) s.ivs = false ∧ s' = respondDone { s with ivs := s.ivs ++ [imm] }) := by
  unfold execIvb
  cases h : appendByte (some ivsMax) s.ivs imm with
  | none => simp [appendByte_eq_none.1 h, eq_comm]
  | some buf => obtain ⟨hf, rfl⟩ := appendByte_eq_some.1 h; simp [hf, eq_comm]

theorem execPtb_next : execPtb imm s = .next s' ↔
    (full s.params.msgMax s.msg = true ∧ s' = commandFault .capacity s) ∨
    (full s.params.msgMax s.msg = false ∧ s' = respondDone { s with msg := s.msg ++ [imm] }) := by
  unfold execPtb
  cases h : appendByte s.params.msgMax s.msg imm with
  | none => simp [appendByte_eq_none.1 h, eq_comm]
  | some buf => obtain ⟨hf, rfl⟩ := appendByte_eq_some.1 h; simp [hf, eq_comm]

theorem execInit_next : execInit s = .next s' ↔
    (s.ivs = [] ∧ s' = commandFault .invalidBlockSize s) ∨
    (s.ivs ≠ [] ∧ s.ivs.length ≤ ivsMax ∧ s' = respondDone (construct s)) := by
  unfold execInit
  by_cases h : s.ivs = []
  · simp [h, eq_comm]
  · have h0 : s.ivs.length ≠ 0 := by simpa using h
    rw [if_neg h0]
    by_cases h2 : s.ivs.length ≤ ivsMax <;> simp [h, h2, eq_comm]

theorem execEnc_next : execEnc s = .next s' ↔
    (s.phase = .unconf ∧ s' = commandFault .notConfigured s) ∨ (s.phase ≠ .unconf ∧ s' = startOperation s) := by
  unfold execEnc
  by_cases h : s.phase = .unconf <;> simp [h, eq_comm]

theorem execRdb_next : execRdb s = .next s' ↔
    (s.out = [] ∧ s' = respond false true .none 0#8 s) ∨
    ∃ d rest, s.out = d :: rest ∧ s' = respond false false .none d { s with out := rest } := by
  unfold execRdb
  cases h : s.out with
  | nil => simp [eq_comm]
  | cons d rest =>
    constructor
    · intro e; cases e; exact .inr ⟨d, rest, rfl, rfl⟩
    · rintro (⟨h, _⟩ | ⟨d', rest', h, rfl⟩)
      · cases h
      · cases h; rfl

theorem execRds_next : execRds sel s = .next s' ↔
    (selectRegister sel = none ∧ s' = commandFault .illegalCommand s) ∨
    ∃ r, selectRegister sel = some r ∧ s' = respond false false .none (readRegister s r) s := by
  unfold execRds
  cases selectRegister sel <;> simp [eq_comm]

theorem execClr_next : execClr mask s = .next s' ↔
    (clearMask mask = none ∧ s' = commandFault .illegalCommand s) ∨
    ∃ m, clearMask mask = some m ∧ s' = respondDone (clearEncryptor m (clearItems m s)) := by
  unfold execClr
  cases clearMask mask <;> simp [eq_comm]

/-- No command is refused. -/
theorem exec_ne_refused (i : Instr) (r : Refusal) : exec i s ≠ .refused r := by
  cases i <;> simp only [exec]
  case nop => simp [execNop]
  case keyb b => unfold execKeyb; split <;> simp
  case ivb b => unfold execIvb; split <;> simp
  case init => unfold execInit; split <;> [simp; (split <;> simp)]
  case ptb b => unfold execPtb; split <;> simp
  case enc => unfold execEnc; split <;> simp
  case rdb => unfold execRdb; split <;> simp
  case rds sel => unfold execRds; split <;> simp
  case clr mask => unfold execClr; split <;> simp

/-- A command completes wherever IVS holds at most 255 bytes. -/
theorem exec_completes (i : Instr) (h : s.ivs.length ≤ ivsMax) : ∃ s', exec i s = .next s' := by
  cases i <;> simp only [exec]
  case nop => exact ⟨_, rfl⟩
  case keyb b => unfold execKeyb; split <;> exact ⟨_, rfl⟩
  case ivb b => unfold execIvb; split <;> exact ⟨_, rfl⟩
  case init => unfold execInit; rw [if_pos h]; split <;> exact ⟨_, rfl⟩
  case ptb b => unfold execPtb; split <;> exact ⟨_, rfl⟩
  case enc => unfold execEnc; split <;> exact ⟨_, rfl⟩
  case rdb => unfold execRdb; split <;> exact ⟨_, rfl⟩
  case rds sel => unfold execRds; split <;> exact ⟨_, rfl⟩
  case clr mask => unfold execClr; split <;> exact ⟨_, rfl⟩

/-- Every command keeps the form of the buffers. -/
theorem exec_wf {i : Instr} (h : exec i s = .next s') (hw : Memory.wf s = true) : Memory.wf s' = true := by
  cases i <;> simp only [exec] at h
  case nop => rw [execNop_next.1 h]; exact hw
  case keyb b =>
    rcases execKeyb_next.1 h with ⟨_, rfl⟩ | ⟨hf, rfl⟩
    · exact hw
    · rw [wf_respondDone, wf_iff]
      exact ⟨appendByte_fits (appendByte_eq_some.2 ⟨hf, rfl⟩), (wf_iff.1 hw).2⟩
  case ivb b =>
    rcases execIvb_next.1 h with ⟨_, rfl⟩ | ⟨hf, rfl⟩
    · exact hw
    · rw [wf_respondDone, wf_iff]
      exact ⟨(wf_iff.1 hw).1, appendByte_fits (appendByte_eq_some.2 ⟨hf, rfl⟩), (wf_iff.1 hw).2.2⟩
  case init =>
    rcases execInit_next.1 h with ⟨_, rfl⟩ | ⟨_, _, rfl⟩
    · exact hw
    · rw [wf_respondDone]; exact wf_construct hw
  case ptb b =>
    rcases execPtb_next.1 h with ⟨_, rfl⟩ | ⟨hf, rfl⟩
    · exact hw
    · rw [wf_respondDone, wf_iff]
      exact ⟨(wf_iff.1 hw).1, (wf_iff.1 hw).2.1, appendByte_fits (appendByte_eq_some.2 ⟨hf, rfl⟩)⟩
  case enc =>
    rcases execEnc_next.1 h with ⟨_, rfl⟩ | ⟨_, rfl⟩
    · exact hw
    · exact wf_startOperation hw
  case rdb =>
    rcases execRdb_next.1 h with ⟨_, rfl⟩ | ⟨_, _, _, rfl⟩ <;> exact hw
  case rds sel =>
    rcases execRds_next.1 h with ⟨_, rfl⟩ | ⟨_, _, rfl⟩ <;> exact hw
  case clr mask =>
    rcases execClr_next.1 h with ⟨_, rfl⟩ | ⟨m, _, rfl⟩
    · exact hw
    · rw [wf_respondDone, wf_clearEncryptor]; exact wf_clearItems m hw

end Sys2Proof.Machine
end

