-- ==== Sys2Proof/Laws/Agents.lean ====
section
/-! SUPPORT. What one step of the three agents can do, once. -/

namespace Sys2Proof.Machine

variable {E : Primitive} {s s' : State}

theorem Phase.not_busy {p : Phase} : p.busy = false ↔ p = .unconf ∨ p = .ready := by
  cases p <;> simp [Phase.busy]

theorem Phase.is_busy {p : Phase} : p.busy = true ↔ p = .pad ∨ p = .xor ∨ p = .cipher := by
  cases p <;> simp [Phase.busy]

/-! ## The micro-steps -/

theorem uPad_next : uPad s = .next s' ↔ s.bsz ≠ 0 ∧ s' =
    { s with
      pbuf := pad s.pbuf s.bsz.toNat, prev := some s.iv, idx := 0
      nblk := (s.pbuf.length + padLen s.pbuf s.bsz.toNat) / s.bsz.toNat, phase := .xor } := by
  unfold uPad
  by_cases h : s.bsz = 0
  · simp [h]
  · simp only [h, if_false, ne_eq, not_false_eq_true, true_and, Host.Outcome.next.injEq]
    exact eq_comm

theorem uXor_next : uXor s = .next s' ↔ ∃ p blk, s.prev = some p ∧
    memRead s.pbuf (s.idx * s.bsz.toNat) s.bsz.toNat = some blk ∧
    ((xorBytes blk p = none ∧ s' = endFail .invalidBlockSize s) ∨
     ∃ m, xorBytes blk p = some m ∧ s' = sendRequest m s) := by
  unfold uXor
  cases hp : s.prev with
  | none => simp
  | some p =>
    cases hb : memRead s.pbuf (s.idx * s.bsz.toNat) s.bsz.toNat with
    | none => simp
    | some blk => cases hx : xorBytes blk p <;> simp [hx, eq_comm]

theorem uRsp_next : uRsp E s = .next s' ↔ ∃ r, s.req = some r ∧
    s' = takeAnswer (E r.key r.block) (s.record (.answer (E r.key r.block))) := by
  unfold uRsp
  cases s.req <;> simp [eq_comm]

theorem takeAnswer_fail (e : PrimError) : takeAnswer (.fail e) s = endFail e s := rfl

theorem takeAnswer_good {c : Bytes} (h : c.length = s.bsz.toNat) : takeAnswer (.ok c) s = takeBlock c s := by
  simp [takeAnswer, h]

theorem takeAnswer_wrongLength {c : Bytes} (h : c.length ≠ s.bsz.toNat) :
    takeAnswer (.ok c) s = endFail .invalidBlockSize s := by
  simp [takeAnswer, h]

/-- The primitive waits, or answers with what is left of its delays. -/
theorem primitiveStep_next (h : primitiveStep E s = .next s') :
    (∃ ds, s' = { s with delays := ds }) ∨ ∃ ds, uRsp E { s with delays := ds } = .next s' := by
  unfold primitiveStep at h
  split at h
  next hd => exact .inr ⟨s.delays, h⟩
  next rest hd => exact .inr ⟨rest, h⟩
  next n rest hd => cases h; exact .inl ⟨_, rfl⟩
  next hd => cases h; exact .inl ⟨s.delays, rfl⟩

/-- The step without the host, by STATE. -/
theorem ownStep_next (h : ownStep E s = .next s') :
    (s.phase.busy = false ∧ s' = s) ∨ (s.phase = .pad ∧ uPad s = .next s') ∨
    (s.phase = .xor ∧ uXor s = .next s') ∨ (s.phase = .cipher ∧ primitiveStep E s = .next s') := by
  unfold ownStep at h
  split at h
  next hp => cases h; exact .inl ⟨by rw [hp]; rfl, rfl⟩
  next hp => cases h; exact .inl ⟨by rw [hp]; rfl, rfl⟩
  next hp => exact .inr (.inl ⟨hp, h⟩)
  next hp => exact .inr (.inr (.inl ⟨hp, h⟩))
  next hp => exact .inr (.inr (.inr ⟨hp, h⟩))

/-- One step: a reset, an accepted word, or a step without the host (whose idle move, if any, is used up). -/
theorem stepWith_next (h : stepWith E s = .next s') :
    (∃ rest, s.host = .reset :: rest ∧ s' = applyReset { s with host := rest }) ∨
    (∃ w rest, s.host = .send w :: rest ∧ s.phase.busy = false ∧ acceptWord w { s with host := rest } = .next s') ∨
    (∃ moves, ownStep E { s with host := moves } = .next s' ∧ ∀ rest, s.host ≠ .reset :: rest) := by
  unfold stepWith at h
  split at h
  next hh => exact .inr (.inr ⟨s.host, h, by simp [hh]⟩)
  next rest hh => cases h; exact .inl ⟨rest, hh, rfl⟩
  next rest hh => exact .inr (.inr ⟨rest, h, by simp [hh]⟩)
  next w rest hh =>
    by_cases hb : s.phase.busy = true
    · rw [if_pos hb] at h; exact .inr (.inr ⟨s.host, h, by simp [hh]⟩)
    · rw [if_neg hb] at h; exact .inr (.inl ⟨w, rest, hh, by simpa using hb, h⟩)

/-- An accepted word is illegal, or performed. -/
theorem acceptWord_next {w : Word} (h : acceptWord w s = .next s') :
    ((∃ e, decode w = .error e) ∧ s' = commandFault .illegalCommand (s.record (.command w))) ∨
    ∃ i, decode w = .ok i ∧ exec i (s.record (.command w)) = .next s' := by
  unfold acceptWord at h
  split at h
  next e he => cases h; exact .inl ⟨⟨e, he⟩, rfl⟩
  next i hi => exact .inr ⟨i, hi, h⟩

/-- With the host sending nothing, or holding a word before a busy chainer, the step is the chainer's or the primitive's
own. -/
theorem stepWith_waiting (hb : s.phase.busy = true) (hh : HostWaits s.host) : stepWith E s = ownStep E s := by
  unfold stepWith
  rcases hh with hh | ⟨w, rest, hh⟩ <;> simp [hh, hb]

theorem stepWith_accept {w : Word} {rest : List HostMove} (hb : s.phase.busy = false) (hh : s.host = .send w :: rest) :
    stepWith E s = acceptWord w { s with host := rest } := by
  unfold stepWith; simp [hh, hb]

theorem stepWith_idle {rest : List HostMove} (hh : s.host = .idle :: rest) :
    stepWith E s = ownStep E { s with host := rest } := by
  unfold stepWith; simp [hh]

theorem runWith_add (m n : Nat) (t : State) (h : runWith E m s = .next t) : runWith E (m + n) s = runWith E n t := by
  induction m generalizing s with
  | zero => cases h; simp
  | succ m ih =>
    rw [Nat.succ_add]
    simp only [runWith] at h ⊢
    cases hs : stepWith E s with
    | next u => rw [hs] at h; exact ih h
    | fault r => rw [hs] at h; cases h
    | refused r => rw [hs] at h; cases h

/-! ## What the invariants do not depend on -/

/-- The host's moves are no part of the invariants. -/
theorem wellKept_host (h : WellKept s) (moves : List HostMove) : WellKept { s with host := moves } :=
  ⟨h.iv, h.unconf, h.noKey, h.buffers,
   fun hb => ⟨(h.quiescent hb).pbuf, (h.quiescent hb).idx, (h.quiescent hb).nblk, (h.quiescent hb).prev,
     (h.quiescent hb).mix, (h.quiescent hb).req⟩,
   h.padding, fun hl => ⟨(h.loop hl).pbuf, (h.loop hl).nblk, (h.loop hl).idx, (h.loop hl).prev, (h.loop hl).out⟩,
   h.cipher, h.noRequest⟩

/-! ## The record -/

@[simp] theorem trafficEvents_nil : trafficEvents [] = [] := rfl
@[simp] theorem trafficEvents_append (ps qs : List (Request × Answer)) :
    trafficEvents (ps ++ qs) = trafficEvents ps ++ trafficEvents qs := by simp [trafficEvents]
@[simp] theorem trafficEvents_single (r : Request) (a : Answer) :
    trafficEvents [(r, a)] = [.request r, .answer a] := rfl

theorem pendingEvents_none (h : s.req = none) : pendingEvents s = [] := by simp [pendingEvents, h]
theorem pendingEvents_some {r : Request} (h : s.req = some r) : pendingEvents s = [.request r] := by
  simp [pendingEvents, h]

end Sys2Proof.Machine
end

