-- ==== Sys2Proof/Laws/PerInstr.lean ====
section
/-! SUPPORT. The family EncodedFields: what the word of each command holds in OP, RSV and IMM (spec/30_encoding.md R91). -/

namespace Sys2Proof

/-- The fields of a concatenation of OP, RSV = 0 and IMM. -/
theorem fields_of_append (op : BitVec 4) (imm : Byte) :
    opField (op ++ (0#4 ++ imm : BitVec 12)) = op ∧ rsvField (op ++ (0#4 ++ imm : BitVec 12)) = 0 ∧
    immField (op ++ (0#4 ++ imm : BitVec 12)) = imm := by
  have h1 := op.isLt
  have h2 := imm.isLt
  have h : (op ++ (0#4 ++ imm : BitVec 12) : BitVec 16).toNat = op.toNat * 4096 + imm.toNat := by
    rw [BitVec.toNat_append, BitVec.toNat_append, ← Nat.shiftLeft_add_eq_or_of_lt (by simp; omega)]
    simp [Nat.shiftLeft_eq]
  refine ⟨?_, ?_, ?_⟩ <;> apply BitVec.eq_of_toNat_eq <;>
    simp only [opField, rsvField, immField, BitVec.extractLsb'_toNat, h, Nat.shiftRight_eq_div_pow,
      BitVec.toNat_ofNat, BitVec.ofNat_eq_ofNat, Nat.zero_mod] <;> omega

namespace Laws.EncodedFields

/-- The word of `i` has `i`'s operation code in OP, zero in RSV and `i`'s operand, or zero, in IMM. -/
def Statement (i : Instr) : Prop :=
  opField (encode i) = i.op ∧ rsvField (encode i) = 0 ∧ immField (encode i) = i.imm

theorem nop : Statement .nop := fields_of_append _ _
theorem keyb (imm : Byte) : Statement (.keyb imm) := fields_of_append _ _
theorem ivb (imm : Byte) : Statement (.ivb imm) := fields_of_append _ _
theorem init : Statement .init := fields_of_append _ _
theorem ptb (imm : Byte) : Statement (.ptb imm) := fields_of_append _ _
theorem enc : Statement .enc := fields_of_append _ _
theorem rdb : Statement .rdb := fields_of_append _ _
theorem rds (sel : Byte) : Statement (.rds sel) := fields_of_append _ _
theorem clr (mask : Byte) : Statement (.clr mask) := fields_of_append _ _

end Laws.EncodedFields

end Sys2Proof
end

