-- ==== Sys2Proof/Tests/Slice0.lean ====
section
/-! SUPPORT. The session's tests: the check of well-formedness, words written out from the spec's patterns, vectors of
spec/95_test_vectors.md on one step each, and, for every statement with hypotheses, a state that meets them. -/

namespace Sys2Proof.Tests

open Sys2Proof.Machine

/-! ## Helpers -/

/-- A field of the next state, if there is one. -/
def after {α : Type} (f : State → α) : Host.Outcome State Fault Refusal → Option α
  | .next s => some (f s)
  | .fault _ => none
  | .refused _ => none

/-- T_ID of 95_test_vectors section 0. -/
def tId : Primitive := fun _ b => .ok b

/-- T_ADD. -/
def tAdd : Primitive := fun k b =>
  if k.length = 0 then .fail .invalidKey
  else .ok (b.zipIdx.map fun (x, j) => x + k.getD (j % k.length) 0 + BitVec.ofNat 8 j)

/-- T_SHORT. -/
def tShort : Primitive := fun _ b => .ok (b.take (b.length - 1))

/-- T_NOZERO. -/
def tNoZero : Primitive := fun _ b => if b.all (· == 0) then .fail .invalidBlockSize else .ok b

/-- The "loaded" state L of section 2.7. -/
def loaded : State :=
  { State.reset with key := [0xaa], iv := [0x01, 0x02], bsz := 2, keys := [0xbb], ivs := [0x03], msg := [0x20],
                     out := [0x11, 0x03], phase := .ready, cause := .illegalCommand }

/-- V17: STATE = PAD. -/
def padding : State :=
  { State.reset with key := [0x10], iv := [0xa1, 0xb2, 0xc3, 0xd4], bsz := 4, pbuf := [1, 2, 3, 4, 5], phase := .pad }

/-- V26: STATE = XOR, block 0. -/
def mixing : State :=
  { padding with pbuf := [1, 2, 3, 4, 5, 3, 3, 3], nblk := 2, prev := some padding.iv, phase := .xor }

/-- V96: STATE = CIPHER, block 0 of 2. -/
def waiting : State :=
  { mixing with mix := some [0xa0, 0xb0, 0xc0, 0xd0], req := some ⟨[0x10], [0xa0, 0xb0, 0xc0, 0xd0]⟩, phase := .cipher }

/-- V97: STATE = CIPHER, the last block. -/
def waitingLast : State :=
  { waiting with idx := 1, out := [0xb0, 0xc1, 0xd2, 0xe3], prev := some [0xb0, 0xc1, 0xd2, 0xe3]
                 mix := some [0xb5, 0xc2, 0xd1, 0xe0], req := some ⟨[0x10], [0xb5, 0xc2, 0xd1, 0xe0]⟩ }

/-- A READY state with one message staged, the host sending `w`. -/
def sending (w : Word) (key msg : Bytes) : State :=
  { loaded with key := key, msg := msg, host := [.send w], delays := [.after 1] }

/-- n bytes of value 0. -/
def zeros (n : Nat) : Bytes := List.replicate n 0

@[simp] theorem zeros_length (n : Nat) : (zeros n).length = n := List.length_replicate

/-! ## Well-formedness -/

theorem test_wellFormed_refuses_selector_3 : ¬ (Instr.rds 3).WellFormed := by decide
theorem test_wellFormed_refuses_mask_bit_6 : ¬ (Instr.clr 0x40).WellFormed := by decide
theorem test_wellFormed_refuses_mask_bit_7 : ¬ (Instr.clr 0x80).WellFormed := by decide
theorem test_wellFormed_boundaries : (Instr.rds 2).WellFormed ∧ (Instr.clr 0x3F).WellFormed := by decide

/-! ## Decoding, words written out from R93 and R100 -/

theorem test_decode_nop : decode 0b0000000000000000 = .ok .nop := by decide
theorem test_decode_keyb : decode 0b0001000000101011 = .ok (.keyb 0x2B) := by decide
theorem test_decode_ivb : decode 0b0010000010100001 = .ok (.ivb 0xA1) := by decide
theorem test_decode_init : decode 0b0011000000000000 = .ok .init := by decide
theorem test_decode_ptb : decode 0b0100000001100001 = .ok (.ptb 0x61) := by decide
theorem test_decode_enc : decode 0b0101000000000000 = .ok .enc := by decide
theorem test_decode_rdb : decode 0b0110000000000000 = .ok .rdb := by decide
theorem test_decode_rds : decode 0b0111000000000010 = .ok (.rds 2) := by decide
theorem test_decode_clr : decode 0b1000000000111111 = .ok (.clr 0x3F) := by decide

/-- V126: illegal words, by the check that refuses them. -/
theorem test_decode_illegal :
    decode 0x0001 = .error .immNonZero ∧ decode 0x0100 = .error .rsvNonZero ∧ decode 0x3100 = .error .rsvNonZero ∧
    decode 0x5001 = .error .immNonZero ∧ decode 0x7003 = .error .selectorReserved ∧
    decode 0x8040 = .error .maskReserved ∧ decode 0x9000 = .error .opReserved := by decide

/-- The rows of R93 exclude one another: two of them never agree on the bits both fix. -/
theorem test_table_rows_disjoint :
    opcodeTable.Pairwise fun r q => r.matched &&& (r.mask &&& q.mask) ≠ q.matched &&& (r.mask &&& q.mask) := by decide

theorem test_tableWord : decodeTableWord 16 0x1015 = some (.keyb 0x15) ∧ decodeTableWord 16 0x7003 = none := by decide

/-! ## Commands, one vector each -/

/-- V71. -/
theorem test_keyb : after State.keys (exec (.keyb 0x15) { State.reset with keys := [0x2b, 0x7e] }) =
    some [0x2b, 0x7e, 0x15] := by decide
/-- V82. -/
theorem test_keyb_full : after (fun s => (s.keys, s.cause, s.trace))
    (exec (.keyb 3) { State.reset with keys := [1, 2], params := ⟨some 2, none⟩ }) =
    some ([1, 2], .capacity, [.response 0x8500]) := by decide
/-- V73 and V74. -/
theorem test_ivb_bound : after (fun s => s.ivs.length) (exec (.ivb 0xFE) { State.reset with ivs := zeros 254 }) = some 255 ∧
    after (fun s => (s.ivs.length, s.cause)) (exec (.ivb 0xFF) { State.reset with ivs := zeros 255 }) =
      some (255, .capacity) := by
  simp [after, exec, execIvb, appendByte, full, ivsMax, respondDone, respond, State.record, commandFault]
/-- V75. -/
theorem test_init : after (fun s => (s.key, s.iv, s.bsz, s.keys ++ s.ivs, s.phase))
    (exec .init { State.reset with keys := [0x10], ivs := [0xa1, 0xb2, 0xc3, 0xd4] }) =
    some ([0x10], [0xa1, 0xb2, 0xc3, 0xd4], 4, [], .ready) := by decide
/-- V77. -/
theorem test_init_empty : after (fun s => (s.key, s.keys, s.cause, s.trace)) (exec .init { loaded with ivs := [] }) =
    some ([0xaa], [0xbb], .invalidBlockSize, [.response 0x8200]) := by decide
/-- V90. -/
theorem test_ptb : after State.msg (exec (.ptb 0x63) { State.reset with msg := [0x61, 0x62] }) =
    some [0x61, 0x62, 0x63] := by decide
/-- V94. -/
theorem test_enc : after (fun s => (s.pbuf, s.msg, s.out, s.phase, s.trace)) (exec .enc loaded) =
    some ([0x20], [], [], .pad, []) := by decide
/-- V93. -/
theorem test_enc_unconf : after (fun s => (s.msg, s.cause, s.trace)) (exec .enc { State.reset with msg := [1, 2] }) =
    some ([1, 2], .notConfigured, [.response 0x8400]) := by decide
/-- V102. -/
theorem test_rdb : after (fun s => (s.out, s.trace)) (exec .rdb { State.reset with out := [0xb0, 0xc1, 0xd2] }) =
    some ([0xc1, 0xd2], [.response 0x00B0]) := by decide
/-- V103. -/
theorem test_rdb_empty : after State.trace (exec .rdb State.reset) = some [.response 0x4000] := by decide
/-- V112. -/
theorem test_rds : after State.trace (exec (.rds 0) loaded) = some [.response 0x0019] ∧
    after State.trace (exec (.rds 1) loaded) = some [.response 0x0002] ∧
    after State.trace (exec (.rds 2) loaded) = some [.response 0x0003] := by decide
/-- V123. -/
theorem test_clr : after (fun s => (s.ivs ++ s.out, s.phase, s.bsz, s.keys ++ s.msg, s.cause)) (exec (.clr 0x2A) loaded) =
    some ([], .unconf, 0, [0xbb, 0x20], .illegalCommand) := by decide
/-- V124. -/
theorem test_clr_other_items : after (fun s => (s.keys ++ s.msg, s.cause, s.ivs ++ s.out, s.key, s.phase))
    (exec (.clr 0x15) loaded) = some ([], .none, [0x03, 0x11, 0x03], [0xaa], .ready) := by decide
/-- V110. -/
theorem test_nop : after State.trace (exec .nop loaded) = some [.response 0x0000] := by decide

/-! ## Micro-steps and functions -/

/-- V7, V8, V9. -/
theorem test_pad : pad [0xaa, 0xbb, 0xcc] 4 = [0xaa, 0xbb, 0xcc, 1] ∧
    pad [0xaa, 0xbb, 0xcc, 0xdd] 4 = [0xaa, 0xbb, 0xcc, 0xdd, 4, 4, 4, 4] ∧ pad [] 1 = [1] := by decide
/-- V20, V25. -/
theorem test_xorBytes : xorBytes [0x00, 0xff, 0x55, 0xaa] [0xff, 0xff, 0x0f, 0x0f] = some [0xff, 0x00, 0x5a, 0xa5] ∧
    xorBytes [1, 2] [1, 2, 3] = none := by decide
/-- V46, V54, V55. -/
theorem test_cbc : cbc tAdd [0x10] [0xa1, 0xb2, 0xc3, 0xd4] [1, 2, 3, 4, 5] =
      .ok [0xb0, 0xc1, 0xd2, 0xe3, 0xc5, 0xd3, 0xe3, 0xf3] ∧
    cbc tShort [] [0, 0, 0, 0] [1] = .fail .invalidBlockSize ∧
    cbc tNoZero [] [0, 0] [1, 2, 1, 2] = .fail .invalidBlockSize := by decide
/-- V17. -/
theorem test_uPad : stepWith tAdd padding = .next mixing := rfl
/-- V26. -/
theorem test_uXor : after (fun s => (s.mix, s.req, s.phase)) (stepWith tAdd mixing) =
    some (waiting.mix, waiting.req, .cipher) := by decide
/-- V96. -/
theorem test_uRsp_more : after (fun s => (s.out, s.prev, s.idx, s.req, s.phase)) (stepWith tAdd waiting) =
    some ([0xb0, 0xc1, 0xd2, 0xe3], some [0xb0, 0xc1, 0xd2, 0xe3], 1, none, .xor) := by decide
/-- V97. -/
theorem test_uRsp_last : after (fun s => (s.out, s.phase, s.nblk, s.trace.getLast?)) (stepWith tAdd waitingLast) =
    some ([0xb0, 0xc1, 0xd2, 0xe3, 0xc5, 0xd3, 0xe3, 0xf3], .ready, 0, some (.response 0x0000)) := by decide
/-- V99 and V100: nothing of the answer, nor of the blocks before it, is left. -/
theorem test_uRsp_fails : after (fun s => (s.out, s.cause, s.phase)) (stepWith tShort waitingLast) =
      some ([], .invalidBlockSize, .ready) ∧
    after (fun s => (s.out, s.cause, s.trace.getLast?)) (stepWith (fun _ _ => .fail .invalidKey) waitingLast) =
      some ([], .invalidKey, some (.response 0x8100)) := by decide
/-- V126-i: the decode checks come first (R224). -/
theorem test_illegal_word_first :
    after (fun s => (s.cause, s.trace)) (step (State.reset.withFetchWord 16 0x5001)) =
      some (.illegalCommand, [.command 0x5001, .response 0x8300]) := by decide
/-- A word offered to a busy chainer is held (R70). -/
theorem test_busy_hold : after (fun s => (s.host, s.phase)) (stepWith tAdd (padding.withFetchWord 16 0x6000)) =
    some ([.send 0x6000], .xor) := by decide

/-! ## The assembler (R100, R101) -/

theorem test_asm_names : (asmLine "CLR KEYS|OUT ; both".toList).map (·.map encode) = some [0x8009] ∧
    (asmLine "RDS CAUSE".toList).map (·.map encode) = some [0x7002] := by decide
theorem test_asm_new : (asmLine "NEW 10, a1b2".toList).map (·.map encode) =
    some [0x1010, 0x20A1, 0x20B2, 0x3000] := by decide

/-! ## The hypotheses of the statements can be met -/

theorem wellKept_loaded : WellKept loaded :=
  ⟨by decide, by decide, by decide, by decide, fun _ => ⟨rfl, rfl, rfl, rfl, rfl, rfl⟩, by decide,
   by simp [loaded], by simp [loaded], by decide⟩

/-- A state that is ready, with an ENC on its way. -/
theorem wellKept_sending (w : Word) (key msg : Bytes) : WellKept (sending w key msg) :=
  ⟨rfl, by simp [sending, loaded], by simp [sending, loaded], rfl, fun _ => ⟨rfl, rfl, rfl, rfl, rfl, rfl⟩,
   by simp [sending, loaded], by simp [sending, loaded], by simp [sending, loaded], fun _ => rfl⟩

theorem wellKept_padding : WellKept padding :=
  ⟨by decide, by decide, by decide, by decide, by simp [padding, Phase.busy], by decide, by simp [padding],
   by simp [padding], by decide⟩

theorem wellKept_mixing : WellKept mixing :=
  ⟨by decide, by decide, by decide, by decide, by simp [mixing, Phase.busy], by decide,
   fun _ => ⟨by decide, by decide, by decide, ⟨_, rfl, by decide⟩, by decide⟩, by simp [mixing], by decide⟩

theorem wellKept_waitingLast : WellKept waitingLast :=
  ⟨by decide, by decide, by decide, by decide, by simp [waitingLast, waiting, Phase.busy], by decide,
   fun _ => ⟨by decide, by decide, by decide, ⟨_, rfl, by decide⟩, by decide⟩,
   fun _ => ⟨_, rfl, by decide, rfl⟩, by decide⟩

theorem injectiveOn_tId (key : Bytes) (b : Nat) : InjectiveOn tId key b := by
  intro x y _ _ h; simpa [tId] using h

theorem witness_EncodedCommandDecodesBack : (Instr.clr 0x3F).WellFormed ∧ (Instr.rds 2).WellFormed := by decide
theorem witness_DecodedWordEncodesBack : decode 0x803F = .ok (.clr 0x3F) := by decide
theorem witness_DecoderFollowsMatchAndMask : (⟨"CLR", 0x8000, 0xFFC0⟩ : TableRow) ∈ opcodeTable := by decide
theorem witness_KeybAppendsToKeys :
    (∀ m, (⟨some 2, none⟩ : Params).keyMax = some m → ({ loaded with params := ⟨some 2, none⟩ } : State).keys.length < m) ∧
    (({ loaded with params := ⟨some 1, none⟩ } : State).params.keyMax = some 1 ∧ 1 ≤ loaded.keys.length) := by
  constructor
  · intro m h; cases h; decide
  · decide
theorem witness_IvbAppendsToIvs : (zeros 254).length < 255 ∧ 255 ≤ (zeros 255).length := by simp
theorem witness_InitConstructsTheEncryptor :
    (1 ≤ loaded.ivs.length ∧ loaded.ivs.length ≤ 255) ∧
    (1 ≤ (zeros 255).length ∧ ({ loaded with ivs := zeros 255 } : State).ivs.length ≤ 255) ∧
    State.reset.ivs = [] := by simp [loaded, State.reset]
theorem witness_PtbAppendsToMsg :
    (∀ m, (⟨none, some 2⟩ : Params).msgMax = some m → loaded.msg.length < m) ∧
    (({ loaded with params := ⟨none, some 1⟩ } : State).params.msgMax = some 1 ∧ 1 ≤ loaded.msg.length) := by
  constructor
  · intro m h; cases h; decide
  · decide
theorem witness_EncStartsTheOperation : loaded.phase = .ready ∧ State.reset.phase = .unconf := by decide
theorem witness_RdbPopsTheFirstByte : loaded.out = 0x11 :: [0x03] ∧ State.reset.out = [] := by decide
theorem witness_RdsReadsTheSelectedRegister : (2 : Byte).toNat ≤ 2 ∧ 3 ≤ (3 : Byte).toNat := by decide
theorem witness_ClrClearsTheSelectedItems : (0x3F : Byte).toNat < 0x40 ∧ 0x40 ≤ (0x40 : Byte).toNat := by decide
theorem witness_ClearingEverythingIsLikeReset : WellKept loaded ∧ loaded.phase.busy = false :=
  ⟨wellKept_loaded, by decide⟩
theorem witness_NoCommandReadsTheSecrets :
    ∃ t, exec .rdb loaded = .next t := ⟨_, rfl⟩
theorem witness_UPadPadsAndLoadsTheSequencer : padding.phase = .pad ∧ HostWaits padding.host ∧ padding.bsz ≠ 0 :=
  ⟨by decide, .inl rfl, by decide⟩
theorem witness_UXorMixesAndRequests :
    mixing.phase = .xor ∧ HostWaits mixing.host ∧ mixing.prev = some [0xa1, 0xb2, 0xc3, 0xd4] ∧
    mixing.idx * mixing.bsz.toNat + mixing.bsz.toNat ≤ mixing.pbuf.length ∧
    ([0xa1, 0xb2, 0xc3, 0xd4] : Bytes).length = mixing.bsz.toNat := ⟨by decide, .inl rfl, by decide⟩
theorem witness_UXorMixesAndRequests_otherLength :
    let s := { mixing with prev := some [0xa1] }
    s.phase = .xor ∧ HostWaits s.host ∧ s.prev = some [0xa1] ∧
    s.idx * s.bsz.toNat + s.bsz.toNat ≤ s.pbuf.length ∧ ([0xa1] : Bytes).length ≠ s.bsz.toNat :=
  ⟨by decide, .inl rfl, by decide⟩
theorem witness_URspTakesAGoodBlock :
    waiting.phase = .cipher ∧ HostWaits waiting.host ∧ waiting.delays = [] ∧
    waiting.req = some ⟨[0x10], [0xa0, 0xb0, 0xc0, 0xd0]⟩ ∧
    tAdd [0x10] [0xa0, 0xb0, 0xc0, 0xd0] = .ok [0xb0, 0xc1, 0xd2, 0xe3] ∧
    ([0xb0, 0xc1, 0xd2, 0xe3] : Bytes).length = waiting.bsz.toNat ∧ waiting.idx + 1 ≠ waiting.nblk :=
  ⟨by decide, .inl rfl, by decide⟩
theorem witness_URspTakesAGoodBlock_last :
    waitingLast.phase = .cipher ∧ HostWaits waitingLast.host ∧ waitingLast.delays = [] ∧
    waitingLast.req = some ⟨[0x10], [0xb5, 0xc2, 0xd1, 0xe0]⟩ ∧
    tAdd [0x10] [0xb5, 0xc2, 0xd1, 0xe0] = .ok [0xc5, 0xd3, 0xe3, 0xf3] ∧
    ([0xc5, 0xd3, 0xe3, 0xf3] : Bytes).length = waitingLast.bsz.toNat ∧ waitingLast.idx + 1 = waitingLast.nblk :=
  ⟨by decide, .inl rfl, by decide⟩
theorem witness_URspFailsTheOperation :
    waiting.phase = .cipher ∧ HostWaits waiting.host ∧ waiting.delays = [] ∧
    waiting.req = some ⟨[0x10], [0xa0, 0xb0, 0xc0, 0xd0]⟩ ∧
    tAdd [] [0xa0, 0xb0, 0xc0, 0xd0] = .fail .invalidKey ∧ tNoZero [0x10] (zeros 4) = .fail .invalidBlockSize ∧
    tShort [0x10] [0xa0, 0xb0, 0xc0, 0xd0] = .ok [0xa0, 0xb0, 0xc0] ∧
    ([0xa0, 0xb0, 0xc0] : Bytes).length ≠ waiting.bsz.toNat := ⟨by decide, .inl rfl, by decide⟩
theorem witness_URspFailsTheOperation_requests :
    (∃ E : Primitive, E [0x10] [0xa0, 0xb0, 0xc0, 0xd0] = .fail .invalidKey) ∧
    ∃ E : Primitive, E [0x10] [0xa0, 0xb0, 0xc0, 0xd0] = .fail .invalidBlockSize :=
  ⟨⟨fun _ _ => .fail .invalidKey, rfl⟩, ⟨fun _ _ => .fail .invalidBlockSize, rfl⟩⟩
theorem witness_SilentPrimitiveKeepsTheChainerWaiting :
    waiting.phase = .cipher ∧ HostWaits [.send 0x6000] ∧
    ({ waiting with host := [.send 0x6000], delays := [.never] } : State).delays = .never :: [] ∧
    ({ waiting with delays := [.after 1] } : State).delays = .after (0 + 1) :: [] ∧
    ({ waiting with delays := [.after 0] } : State).delays = .after 0 :: [] :=
  ⟨by decide, .inr ⟨_, _, rfl⟩, by decide⟩
theorem witness_StepRunsTheDecodedCommand :
    (sending 0x6000 [] []).phase.busy = false ∧ (sending 0x6000 [] []).host = .send 0x6000 :: [] ∧
    decode 0x6000 = .ok .rdb := by decide
theorem witness_IllegalWordOnlyWritesCause :
    (sending 0x9000 [] []).phase.busy = false ∧ (sending 0x9000 [] []).host = .send 0x9000 :: [] ∧
    decode 0x9000 = .error .opReserved := by decide
theorem witness_ResetStepResetsEverything : ({ waiting with host := [.reset] } : State).host = .reset :: [] := by decide
theorem witness_QuiescentMachineKeepsItsState : loaded.phase.busy = false ∧ loaded.host = [] := by decide
theorem witness_IdleMoveLetsTheOthersMove :
    ({ loaded with host := [.idle] } : State).host = .idle :: [] ∧ loaded.phase.busy = false := by decide
theorem witness_StopsWhereTheSpecGivesNoValue :
    WellKept loaded ∧
    (∃ rest, ({ waiting with req := none, delays := [.after 0] } : State).delays = .after 0 :: rest) ∧
    stepWith tId { waiting with req := none, delays := [.after 0] } = .fault .noRequest ∧
    255 < ({ State.reset with ivs := zeros 256 } : State).ivs.length ∧
    (({ padding with bsz := 0 } : State).phase = .pad ∧ ({ padding with bsz := 0 } : State).bsz = 0) ∧
    (({ mixing with prev := none } : State).phase = .xor ∧ ({ mixing with prev := none } : State).prev = none) ∧
    (mixing.prev ≠ none ∧ ({ mixing with idx := 2 } : State).pbuf.length < 2 * mixing.bsz.toNat + mixing.bsz.toNat) ∧
    (waiting.phase = .cipher ∧ waiting.delays = [] ∧ ({ waiting with req := none } : State).req = none) ∧
    HostWaits padding.host ∧ HostWaits mixing.host ∧ HostWaits waiting.host :=
  ⟨wellKept_loaded, ⟨[], rfl⟩, rfl, by simp, by decide, by decide, by decide, by decide, .inl rfl, .inl rfl, .inl rfl⟩
/-- For the rules whose only hypothesis is that a step answers a next state. -/
theorem witness_every_step_rule : ∃ s', stepWith tAdd (sending 0x5000 [0x10] []) = .next s' := ⟨_, rfl⟩
theorem witness_CommandsAreAcceptedOnlyWhenNotBusy :
    ∃ s', stepWith tAdd (sending 0x5000 [0x10] []) = .next s' := witness_every_step_rule
theorem witness_OnlyTheListedResponses :
    ∃ s', stepWith tAdd (sending 0x5000 [0x10] []) = .next s' := witness_every_step_rule
theorem witness_EncryptorIsFixedForItsLifetime :
    ∃ s', stepWith tAdd (sending 0x5000 [0x10] []) = .next s' := witness_every_step_rule
theorem witness_NoStepChangesTheCapacities :
    ∃ s', stepWith tAdd (sending 0x5000 [0x10] []) = .next s' := witness_every_step_rule
theorem witness_EveryCommandGetsOneResponse :
    (∃ s', stepWith tAdd (sending 0x5000 [0x10] []) = .next s') ∧
    ∀ rest, (sending 0x5000 [0x10] []).host ≠ .reset :: rest := ⟨witness_every_step_rule, by simp [sending]⟩
theorem witness_CommandFaultChangesOnlyCause :
    ∃ s', stepWith tAdd (sending 0x9000 [] []) = .next s' ∧
      (sending 0x9000 [] []).phase.busy = false ∧ (sending 0x9000 [] []).host = .send 0x9000 :: [] ∧
      s'.trace = (sending 0x9000 [] []).trace ++ [.command 0x9000, .response 0x8300] ∧
      (0x8300 : Word).getLsbD 15 = true := ⟨_, rfl, by decide, by decide, rfl, by decide⟩
theorem witness_CauseIsStickyUntilCleared :
    ∃ s', stepWith tAdd (sending 0x9000 [] []) = .next s' ∧
      s'.trace = (sending 0x9000 [] []).trace ++ [.command 0x9000] ++ [.response 0x8300] ∧
      (0x8300 : Word).getLsbD 15 = true := ⟨_, rfl, rfl, by decide⟩
theorem witness_OperationEndsWithAllOrNothing :
    WellKept waitingLast ∧ waitingLast.phase.busy = true ∧
    ∃ s', stepWith tAdd waitingLast = .next s' ∧ s'.phase.busy = false :=
  ⟨wellKept_waitingLast, by decide, _, rfl, by decide⟩
theorem witness_OnlyTheListedTransitions : WellKept mixing ∧ ∃ s', stepWith tAdd mixing = .next s' :=
  ⟨wellKept_mixing, _, rfl⟩
theorem witness_EveryStepKeepsTheInvariants : WellKept padding ∧ ∃ s', step padding = .next s' :=
  ⟨wellKept_padding, _, rfl⟩
theorem witness_NothingStopsAWellKeptMachine : WellKept waitingLast := wellKept_waitingLast
theorem witness_ReadableOutIsCiphertext : WellKept State.reset ∧ OutIsCiphertext tId State.reset ∧
    ∃ s', stepWith tId State.reset = .next s' :=
  ⟨⟨by decide, by decide, by decide, by decide, fun _ => ⟨rfl, rfl, rfl, rfl, rfl, rfl⟩, by decide,
    by simp [State.reset], by simp [State.reset], by decide⟩,
   ⟨fun _ => .inl rfl, by simp [State.reset], by simp [State.reset], by simp [State.reset]⟩, _, rfl⟩

/-- OUT part read, its operation in the record, and a later RDB of it. -/
def partRead : State :=
  { loaded with out := [0xa8], trace := operationEvents tId [] [0x55, 0xaa] [] ++ [.command 0x6000, .response 0x0057] }

theorem witness_ReadableOutIsCiphertext_quiescent : WellKept partRead ∧ OutIsCiphertext tId partRead ∧
    ∃ s', stepWith tId partRead = .next s' :=
  ⟨⟨by decide, by decide, by decide, by decide, fun _ => ⟨rfl, rfl, rfl, rfl, rfl, rfl⟩, by decide,
    by simp [partRead, loaded], by simp [partRead, loaded], by decide⟩,
   ⟨fun _ => .inr ⟨[], [0x55, 0xaa], [], [0x57, 0xa8], [], [.command 0x6000, .response 0x0057], by decide, by decide,
      by decide, by decide, rfl, by simp⟩,
    by simp [partRead, loaded], by simp [partRead, loaded], by simp [partRead, loaded]⟩, _, rfl⟩

theorem witness_ReadableOutIsCiphertext_padding :
    let s := { padding with trace := [.command 0x5000] }
    WellKept s ∧ OutIsCiphertext tAdd s ∧ ∃ s', stepWith tAdd s = .next s' :=
  ⟨⟨by decide, by decide, by decide, by decide, by simp [padding, Phase.busy], by decide, by simp [padding],
    by simp [padding], by decide⟩,
   ⟨by simp [padding, Phase.busy], fun _ => ⟨[], rfl⟩, by simp [padding], by simp [padding]⟩, _, rfl⟩

/-- V26 with the record of its ENC, and V97 with the record of the first block's request and answer. -/
theorem witness_ReadableOutIsCiphertext_xor :
    let s := { mixing with trace := [.command 0x5000] }
    WellKept s ∧ OutIsCiphertext tAdd s ∧ ∃ s', stepWith tAdd s = .next s' :=
  ⟨⟨by decide, by decide, by decide, by decide, by simp [mixing, Phase.busy], by decide,
    fun _ => ⟨by decide, by decide, by decide, ⟨_, rfl, by decide⟩, by decide⟩, by simp [mixing], by decide⟩,
   ⟨by simp [mixing, Phase.busy], by simp [mixing],
    fun _ => ⟨[1, 2, 3, 4, 5], _, [], [], by decide, rfl, by decide, by decide, by decide⟩, by simp [mixing]⟩, _, rfl⟩

theorem witness_ReadableOutIsCiphertext_cipher :
    let s := { waitingLast with
      trace := [.command 0x5000, .request ⟨[0x10], [0xa0, 0xb0, 0xc0, 0xd0]⟩, .answer (.ok [0xb0, 0xc1, 0xd2, 0xe3]),
                .request ⟨[0x10], [0xb5, 0xc2, 0xd1, 0xe0]⟩] }
    WellKept s ∧ OutIsCiphertext tAdd s ∧ ∃ s', stepWith tAdd s = .next s' :=
  ⟨⟨by decide, by decide, by decide, by decide, by simp [waitingLast, waiting, Phase.busy], by decide,
    fun _ => ⟨by decide, by decide, by decide, ⟨_, rfl, by decide⟩, by decide⟩, fun _ => ⟨_, rfl, by decide, rfl⟩,
    by decide⟩,
   ⟨by simp [waitingLast, waiting, Phase.busy], by simp [waitingLast, waiting],
    fun _ => ⟨[1, 2, 3, 4, 5], _, [], [(⟨[0x10], [0xa0, 0xb0, 0xc0, 0xd0]⟩, .ok [0xb0, 0xc1, 0xd2, 0xe3])],
      by decide, rfl, by decide, by decide, by decide⟩,
    fun _ => ⟨_, _, rfl, rfl, by decide⟩⟩, _, rfl⟩
/-- The least and the greatest block size. -/
theorem witness_PaddingAddsOneToBlockSizeBytes : (1 ≤ 1 ∧ 1 ≤ 255) ∧ (1 ≤ 255 ∧ 255 ≤ 255) := by decide
theorem witness_UnpadInvertsPad : (1 ≤ 1 ∧ 1 ≤ 255) ∧ (1 ≤ 255 ∧ 255 ≤ 255) := by decide
theorem witness_XorBytesIsBytewise :
    ([1, 2] : Bytes).length = ([3, 4] : Bytes).length ∧ ([1] : Bytes).length ≠ ([3, 4] : Bytes).length := by decide
theorem witness_XorBytesLaws :
    ([1, 2] : Bytes).length = 2 ∧ ([3, 4] : Bytes).length = 2 ∧ ([5, 6] : Bytes).length = 2 := by decide
theorem witness_CiphertextLength :
    1 ≤ ([0x55, 0xaa] : Bytes).length ∧ ([0x55, 0xaa] : Bytes).length ≤ 255 ∧
    cbc tId [] [0x55, 0xaa] [] = .ok [0x57, 0xa8] := by decide
theorem witness_CiphertextBlocksAreChained :
    1 ≤ ([0x55, 0xaa] : Bytes).length ∧ ([0x55, 0xaa] : Bytes).length ≤ 255 ∧
    cbc tId [] [0x55, 0xaa] [] = .ok [0x57, 0xa8] := witness_CiphertextLength
theorem witness_FailedEncryptionReportsTheAnswer :
    1 ≤ (zeros 2).length ∧ (zeros 2).length ≤ 255 ∧
    cbc tNoZero [] (zeros 2) [1, 2, 1, 2] = .fail .invalidBlockSize := by decide
theorem witness_ChainingSensitivity :
    ([1, 2, 3] : Bytes).length = ([1, 2, 4] : Bytes).length ∧ 2 < ([1, 2, 3] : Bytes).length ∧
    ([1, 2, 3] : Bytes)[2]? ≠ ([1, 2, 4] : Bytes)[2]? ∧
    (∀ j, j ≠ 2 → ([1, 2, 3] : Bytes)[j]? = ([1, 2, 4] : Bytes)[j]?) ∧
    (∃ ct, cbc tId [] (zeros 2) [1, 2, 3] = .ok ct) ∧ (∃ ct, cbc tId [] (zeros 2) [1, 2, 4] = .ok ct) ∧
    InjectiveOn tId [] 2 := by
  refine ⟨by decide, by decide, by decide, ?_, ⟨_, rfl⟩, ⟨_, rfl⟩, injectiveOn_tId _ _⟩
  intro j hj
  match j, hj with
  | 0, _ => rfl
  | 1, _ => rfl
  | 2, h => exact absurd rfl h
  | n + 3, _ => rfl
theorem witness_IvSensitivity :
    (zeros 2).length = ([1, 0] : Bytes).length ∧ zeros 2 ≠ [1, 0] ∧ (∃ ct, cbc tId [] (zeros 2) [7] = .ok ct) ∧
    (∃ ct, cbc tId [] [1, 0] [7] = .ok ct) ∧ InjectiveOn tId [] 2 :=
  ⟨by decide, by decide, ⟨_, rfl⟩, ⟨_, rfl⟩, injectiveOn_tId _ _⟩
theorem witness_CommonStartLeaks :
    1 * (zeros 2).length ≤ ([1, 2, 3] : Bytes).length ∧ 1 * (zeros 2).length ≤ ([1, 2] : Bytes).length ∧
    ([1, 2, 3] : Bytes).take (1 * (zeros 2).length) = ([1, 2] : Bytes).take (1 * (zeros 2).length) ∧
    (∃ ct, cbc tId [] (zeros 2) [1, 2, 3] = .ok ct) ∧ ∃ ct, cbc tId [] (zeros 2) [1, 2] = .ok ct :=
  ⟨by decide, by decide, by decide, ⟨_, rfl⟩, ⟨_, rfl⟩⟩
theorem witness_OperationComputesCbc :
    let s := { sending 0x5000 [] [1] with host := [.send 0x5000, .idle, .send 0x6000, .reset] }
    WellKept s ∧ s.phase = .ready ∧ s.host = .send 0x5000 :: [.idle, .send 0x6000, .reset] ∧
    NoResetAhead [.idle, .send 0x6000, .reset] ∧ Delay.never ∉ s.delays ∧
    (∃ ct, cbc tId s.key s.iv s.msg = .ok ct) ∧ cbc tAdd s.key s.iv s.msg = .fail .invalidKey ∧
    cbc tShort s.key s.iv s.msg = .fail .invalidBlockSize :=
  ⟨wellKept_host (wellKept_sending _ _ _) _, by decide, rfl, trivial, by decide, ⟨_, rfl⟩, by decide, by decide⟩
theorem witness_OperationTakesTwoStepsPerBlock :
    ∃ s : State, WellKept s ∧ s.phase = .ready ∧ s.host = .send 0x5000 :: [] ∧ NoResetAhead [] ∧ s.delays = [] ∧
      ∃ ct, cbc tId s.key s.iv s.msg = .ok ct :=
  ⟨{ loaded with host := [.send 0x5000] },
   ⟨by decide, by decide, by decide, by decide, fun _ => ⟨rfl, rfl, rfl, rfl, rfl, rfl⟩, by decide,
    by simp [loaded], by simp [loaded], by decide⟩,
   by decide, by decide, trivial, by decide, _, rfl⟩
theorem witness_CiphertextDependsOnKeyIvAndMessage :
    ∃ s t : State, s ≠ t ∧ WellKept s ∧ WellKept t ∧ s.phase = .ready ∧ t.phase = .ready ∧
      s.host = .send 0x5000 :: [] ∧ t.host = .send 0x5000 :: [] ∧ NoResetAhead [] ∧
      Delay.never ∉ s.delays ∧ Delay.never ∉ t.delays ∧ s.key = t.key ∧ s.iv = t.iv ∧ s.msg = t.msg :=
  ⟨sending 0x5000 [0xaa] [0x20], { loaded with host := [.send 0x5000] }, by decide, wellKept_sending _ _ _,
   ⟨by decide, by decide, by decide, by decide, fun _ => ⟨rfl, rfl, rfl, rfl, rfl, rfl⟩, by decide,
    by simp [loaded], by simp [loaded], by decide⟩,
   by decide, by decide, by decide, by decide, trivial, by decide, by decide, by decide, by decide, by decide⟩
theorem witness_EveryWordIsAcceptedAndAnswered :
    WellKept (sending 0x5000 [] [1]) ∧ (sending 0x5000 [] [1]).phase.busy = false ∧
    (sending 0x5000 [] [1]).host = [0x5000].map .send ∧ Delay.never ∉ (sending 0x5000 [] [1]).delays :=
  ⟨wellKept_sending _ _ _, by decide, by decide, by decide⟩
theorem witness_NewConstructs :
    ∃ s : State, s.phase.busy = false ∧ s.keys = [] ∧ s.ivs = [] ∧
      (∀ m, s.params.keyMax = some m → ([0x10] : Bytes).length ≤ m) ∧ 1 ≤ ([0xa1, 0xb2] : Bytes).length ∧
      ([0xa1, 0xb2] : Bytes).length = (2 : BitVec 8).toNat ∧ s.host = sends (asmNew [0x10] [0xa1, 0xb2]) ++ [] :=
  ⟨{ State.reset with host := sends (asmNew [0x10] [0xa1, 0xb2]) ++ [] }, by decide, by decide, by decide,
   by simp [State.reset, Params.unbounded], by decide, by decide, rfl⟩
theorem witness_EncryptLeavesTheCiphertext :
    ∃ s : State, WellKept s ∧ s.phase = .ready ∧ s.msg = [] ∧
      (∀ m, s.params.msgMax = some m → ([0x10] : Bytes).length ≤ m) ∧ s.host = sends (asmEncrypt [0x10]) ++ [] ∧
      NoResetAhead [] ∧ Delay.never ∉ s.delays ∧ ∃ ct, cbc tId s.key s.iv [0x10] = .ok ct :=
  ⟨{ loaded with msg := [], host := sends (asmEncrypt [0x10]) ++ [] },
   ⟨by decide, by decide, by decide, by decide, fun _ => ⟨rfl, rfl, rfl, rfl, rfl, rfl⟩, by decide,
    by simp [loaded], by simp [loaded], by decide⟩,
   by decide, by decide, by simp [loaded, State.reset, Params.unbounded], rfl, trivial, by decide, _, rfl⟩
theorem witness_ReadReturnsTheBytesInOrder :
    ∃ s : State, s.phase.busy = false ∧ s.out = [0x11, 0x03] ∧ s.host = sends (asmRead 3) ++ [] :=
  ⟨{ loaded with host := sends (asmRead 3) ++ [] }, by decide, rfl, rfl⟩

end Sys2Proof.Tests
end

/-! PROOFS. What the scope fixes (spec/00_scope.md): the stops of the model (R9, R10, log 6) and the capacities (R8,
log 3). First the facts about the decoder and the steps that these need. -/

/-! ## The decoder read backwards -/

namespace Sys2Proof

/-- OP, RSV and IMM together are the whole word (R91). -/
theorem fields_append (w : Word) : (opField w ++ (rsvField w ++ immField w : BitVec 12) : Word) = w := by
  have low : (rsvField w ++ immField w : BitVec 12) = w.extractLsb' 0 12 :=
    BitVec.extractLsb'_append_extractLsb'_eq_extractLsb' rfl
  have whole : (opField w ++ w.extractLsb' 0 12 : Word) = w.extractLsb' 0 16 :=
    BitVec.extractLsb'_append_extractLsb'_eq_extractLsb' rfl
  rw [low, whole, BitVec.extractLsb'_eq_self]

theorem decodeNoOperand_ok {i j : Instr} {imm : Byte} :
    decodeNoOperand i imm = .ok j ↔ imm = 0 ∧ j = i := by
  unfold decodeNoOperand
  by_cases h : imm = 0
  · rw [if_pos h, Except.ok.injEq]; exact ⟨fun e => ⟨h, e.symm⟩, fun e => e.2.symm⟩
  · rw [if_neg h]; simp only [h, false_and, reduceCtorEq]

/-- A legal row of R93 has the operation code and the operand of its command. -/
theorem fields_of_decodeOp {op : BitVec 4} {imm : Byte} {i : Instr} (h : decodeOp op imm = .ok i) :
    op = i.op ∧ imm = i.imm := by
  have code {n : Nat} (hn : op.toNat = n) : op = BitVec.ofNat 4 n := by
    rw [← hn, BitVec.ofNat_toNat, BitVec.setWidth_eq]
  unfold decodeOp at h
  split at h
  next hop => obtain ⟨himm, rfl⟩ := decodeNoOperand_ok.1 h; exact ⟨code hop, himm⟩
  next hop => cases h; exact ⟨code hop, rfl⟩
  next hop => cases h; exact ⟨code hop, rfl⟩
  next hop => obtain ⟨himm, rfl⟩ := decodeNoOperand_ok.1 h; exact ⟨code hop, himm⟩
  next hop => cases h; exact ⟨code hop, rfl⟩
  next hop => obtain ⟨himm, rfl⟩ := decodeNoOperand_ok.1 h; exact ⟨code hop, himm⟩
  next hop => obtain ⟨himm, rfl⟩ := decodeNoOperand_ok.1 h; exact ⟨code hop, himm⟩
  next hop => split at h <;> cases h; exact ⟨code hop, rfl⟩
  next hop => split at h <;> cases h; exact ⟨code hop, rfl⟩
  next => cases h

/-- A legal word is the word of the command it decodes to (R91). -/
theorem encode_of_decode {w : Word} {i : Instr} (h : decode w = .ok i) : encode i = w := by
  unfold decode at h
  split at h
  next hrsv =>
    obtain ⟨hop, himm⟩ := fields_of_decodeOp h
    calc encode i = opField w ++ (rsvField w ++ immField w : BitVec 12) := by rw [hrsv, hop, himm]; rfl
      _ = w := fields_append w
  next => cases h

end Sys2Proof

namespace Sys2Proof.Machine

variable {E : Primitive} {s s' : State} {f : Fault}

/-! ## The capacities, which nothing writes -/

@[simp] theorem takeBlock_params (c : Bytes) (s : State) : (takeBlock c s).params = s.params := by
  unfold takeBlock; split <;> rfl

@[simp] theorem takeAnswer_params (a : Answer) (s : State) : (takeAnswer a s).params = s.params := by
  unfold takeAnswer
  split
  · rfl
  · split
    · exact takeBlock_params _ _
    · rfl

/-- No command writes the capacities. -/
theorem exec_params {i : Instr} (h : exec i s = .next s') : s'.params = s.params := by
  cases i <;> simp only [exec] at h
  case nop => rw [execNop_next.1 h, respondDone_params]
  case keyb b => rcases execKeyb_next.1 h with ⟨_, rfl⟩ | ⟨_, rfl⟩ <;> rfl
  case ivb b => rcases execIvb_next.1 h with ⟨_, rfl⟩ | ⟨_, rfl⟩ <;> rfl
  case init => rcases execInit_next.1 h with ⟨_, rfl⟩ | ⟨_, _, rfl⟩ <;> rfl
  case ptb b => rcases execPtb_next.1 h with ⟨_, rfl⟩ | ⟨_, rfl⟩ <;> rfl
  case enc => rcases execEnc_next.1 h with ⟨_, rfl⟩ | ⟨_, rfl⟩ <;> rfl
  case rdb => rcases execRdb_next.1 h with ⟨_, rfl⟩ | ⟨_, _, _, rfl⟩ <;> rfl
  case rds sel => rcases execRds_next.1 h with ⟨_, rfl⟩ | ⟨_, _, rfl⟩ <;> rfl
  case clr mask => rcases execClr_next.1 h with ⟨_, rfl⟩ | ⟨m, _, rfl⟩ <;> simp

theorem acceptWord_params {w : Word} (h : acceptWord w s = .next s') : s'.params = s.params := by
  rcases acceptWord_next h with ⟨_, rfl⟩ | ⟨i, _, hi⟩
  · rfl
  · simpa using exec_params hi

theorem uXor_params (h : uXor s = .next s') : s'.params = s.params := by
  obtain ⟨p, blk, _, _, ⟨_, rfl⟩ | ⟨m, _, rfl⟩⟩ := uXor_next.1 h <;> rfl

theorem uRsp_params (h : uRsp E s = .next s') : s'.params = s.params := by
  obtain ⟨r, _, rfl⟩ := uRsp_next.1 h
  simp

theorem primitiveStep_params (h : primitiveStep E s = .next s') : s'.params = s.params := by
  rcases primitiveStep_next h with ⟨ds, rfl⟩ | ⟨ds, hr⟩
  · rfl
  · exact (uRsp_params hr :)

theorem ownStep_params (h : ownStep E s = .next s') : s'.params = s.params := by
  rcases ownStep_next h with ⟨_, rfl⟩ | ⟨_, hu⟩ | ⟨_, hx⟩ | ⟨_, hr⟩
  · rfl
  · rw [(uPad_next.1 hu).2]
  · exact uXor_params hx
  · exact primitiveStep_params hr

theorem stepWith_params (h : stepWith E s = .next s') : s'.params = s.params := by
  rcases stepWith_next h with ⟨rest, _, rfl⟩ | ⟨w, rest, _, _, hw⟩ | ⟨moves, ho, _⟩
  · rfl
  · exact (acceptWord_params hw :)
  · exact (ownStep_params ho :)

/-- Settles O38: a step is a reset, a command or a step without the host, and each keeps the capacities. -/
theorem noStepChangesTheCapacities : Obligations.NoStepChangesTheCapacities :=
  fun _ _ _ h => stepWith_params h

/-! ## Where each part of a step stops -/

theorem execInit_fault : execInit s = .fault f ↔ f = .ivTooLong ∧ ivsMax < s.ivs.length := by
  unfold execInit
  split
  next h0 => simp [h0]
  next =>
    split
    next hle => simp [hle]
    next hgt => simp [Nat.lt_of_not_le hgt, eq_comm]

/-- INIT is the only command that stops. -/
theorem exec_fault {i : Instr} : exec i s = .fault f ↔ i = .init ∧ f = .ivTooLong ∧ ivsMax < s.ivs.length := by
  cases i <;> simp only [exec]
  case nop => simp [execNop]
  case keyb b => unfold execKeyb; split <;> simp
  case ivb b => unfold execIvb; split <;> simp
  case init => simpa using execInit_fault
  case ptb b => unfold execPtb; split <;> simp
  case enc => unfold execEnc; split <;> simp
  case rdb => unfold execRdb; split <;> simp
  case rds sel => unfold execRds; split <;> simp
  case clr mask => unfold execClr; split <;> simp

theorem uPad_fault : uPad s = .fault f ↔ f = .padUndefined ∧ s.bsz = 0 := by
  unfold uPad
  by_cases h : s.bsz = 0
  · simp [h, eq_comm]
  · rw [if_neg h]; simp only [h, and_false, reduceCtorEq]

theorem uXor_fault : uXor s = .fault f ↔
    (f = .noPreviousBlock ∧ s.prev = none) ∨
    (f = .blockOutOfRange ∧ s.prev ≠ none ∧ s.pbuf.length < s.idx * s.bsz.toNat + s.bsz.toNat) := by
  unfold uXor
  cases hp : s.prev with
  | none => simp [eq_comm]
  | some p =>
    rw [← memRead_eq_none]
    cases hb : memRead s.pbuf (s.idx * s.bsz.toNat) s.bsz.toNat with
    | none => simp [eq_comm]
    | some blk => cases hx : xorBytes blk p <;> simp [hx]

theorem uRsp_fault : uRsp E s = .fault f ↔ f = .noRequest ∧ s.req = none := by
  unfold uRsp
  cases s.req <;> simp [eq_comm]

/-- The primitive's next answer is due in this step (log 5). -/
def AnswerDue (s : State) : Prop := s.delays = [] ∨ ∃ rest, s.delays = .after 0 :: rest

/-- The primitive waits, or an answer is due and U_RSP takes it: the whole outcome, where `primitiveStep_next` speaks of
a next state. -/
theorem primitiveStep_eq : (¬ AnswerDue s ∧ ∃ ds, primitiveStep E s = .next { s with delays := ds }) ∨
    (AnswerDue s ∧ ∃ ds, primitiveStep E s = uRsp E { s with delays := ds }) := by
  unfold primitiveStep AnswerDue
  split
  next hd => exact .inr ⟨.inl hd, s.delays, rfl⟩
  next rest hd => exact .inr ⟨.inr ⟨rest, hd⟩, rest, rfl⟩
  next n rest hd => exact .inl ⟨by simp [hd], _, rfl⟩
  next rest hd => exact .inl ⟨by simp [hd], s.delays, rfl⟩

theorem primitiveStep_fault : primitiveStep E s = .fault f ↔ f = .noRequest ∧ AnswerDue s ∧ s.req = none := by
  rcases primitiveStep_eq (E := E) (s := s) with ⟨hd, ds, h⟩ | ⟨hd, ds, h⟩
  · simp [h, hd]
  · simp [h, hd, uRsp_fault]

/-- Where the step without the host stops, by the fault's name (log 6). -/
def OwnStop (s : State) : Fault → Prop
  | .ivTooLong => False
  | .padUndefined => s.phase = .pad ∧ s.bsz = 0
  | .noPreviousBlock => s.phase = .xor ∧ s.prev = none
  | .blockOutOfRange => s.phase = .xor ∧ s.prev ≠ none ∧ s.pbuf.length < s.idx * s.bsz.toNat + s.bsz.toNat
  | .noRequest => s.phase = .cipher ∧ AnswerDue s ∧ s.req = none

theorem ownStep_fault : ownStep E s = .fault f ↔ OwnStop s f := by
  unfold ownStep
  split
  next hp => cases f <;> simp [OwnStop, hp]
  next hp => cases f <;> simp [OwnStop, hp]
  next hp => rw [uPad_fault]; cases f <;> simp [OwnStop, hp]
  next hp => rw [uXor_fault]; cases f <;> simp [OwnStop, hp]
  next hp => rw [primitiveStep_fault]; cases f <;> simp [OwnStop, hp]

/-- The host's moves play no part in it. -/
theorem ownStop_host (moves : List HostMove) : OwnStop { s with host := moves } f ↔ OwnStop s f := by
  cases f <;> rfl

/-- Of the accepted words, INIT's alone stops: an illegal word is answered in a next state (R226). -/
theorem acceptWord_fault {w : Word} (h : acceptWord w s = .fault f) :
    w = 0x3000 ∧ f = .ivTooLong ∧ ivsMax < s.ivs.length := by
  unfold acceptWord at h
  split at h
  next => cases h
  next i hi =>
    obtain ⟨rfl, hf⟩ := exec_fault.1 h
    exact ⟨(encode_of_decode hi).symm, hf⟩

/-- One step, whatever its outcome: a reset, an accepted word, or a step without the host. -/
theorem stepWith_eq (E : Primitive) (s : State) :
    (∃ rest, s.host = .reset :: rest ∧ stepWith E s = .next (applyReset { s with host := rest })) ∨
    (∃ w rest, s.host = .send w :: rest ∧ s.phase.busy = false ∧
      stepWith E s = acceptWord w { s with host := rest }) ∨
    ∃ moves, stepWith E s = ownStep E { s with host := moves } := by
  unfold stepWith
  split
  next => exact .inr (.inr ⟨s.host, rfl⟩)
  next rest hh => exact .inl ⟨rest, hh, rfl⟩
  next rest _ => exact .inr (.inr ⟨rest, rfl⟩)
  next w rest hh =>
    split
    next => exact .inr (.inr ⟨s.host, rfl⟩)
    next hb => exact .inr (.inl ⟨w, rest, hh, Bool.eq_false_of_not_eq_true hb, rfl⟩)

/-- Where a step stops, by the fault's name: on INIT with too many staged IV bytes, or without the host. -/
theorem stepWith_fault (h : stepWith E s = .fault f) :
    (f = .ivTooLong ∧ s.phase.busy = false ∧ (∃ rest, s.host = .send 0x3000 :: rest) ∧ ivsMax < s.ivs.length) ∨
    OwnStop s f := by
  rcases stepWith_eq E s with ⟨rest, _, hn⟩ | ⟨w, rest, hh, hb, ha⟩ | ⟨moves, ho⟩
  · rw [hn] at h; cases h
  · rw [ha] at h
    obtain ⟨rfl, hf, hlen⟩ := acceptWord_fault h
    exact .inl ⟨hf, hb, ⟨rest, hh⟩, hlen⟩
  · rw [ho, ownStep_fault, ownStop_host] at h
    exact .inr h

theorem OwnStop.busy (h : OwnStop s f) : s.phase.busy = true := by
  cases f with
  | ivTooLong => exact h.elim
  | padUndefined => exact Phase.is_busy.2 (.inl h.1)
  | noPreviousBlock => exact Phase.is_busy.2 (.inr (.inl h.1))
  | blockOutOfRange => exact Phase.is_busy.2 (.inr (.inl h.1))
  | noRequest => exact Phase.is_busy.2 (.inr (.inr h.1))

/-- With the host sending nothing or holding a word, the stop is the step's (R70). -/
theorem stepWith_fault_of_ownStop (hh : HostWaits s.host) (h : OwnStop s f) : stepWith E s = .fault f := by
  rw [stepWith_waiting h.busy hh]
  exact ownStep_fault.2 h

/-! ## Nothing is refused -/

theorem uPad_ne_refused (r : Refusal) : uPad s ≠ .refused r := by
  unfold uPad; split <;> simp

theorem uXor_ne_refused (r : Refusal) : uXor s ≠ .refused r := by
  unfold uXor
  split
  · simp
  · split
    · simp
    · split <;> simp

theorem uRsp_ne_refused (r : Refusal) : uRsp E s ≠ .refused r := by
  unfold uRsp; split <;> simp

theorem ownStep_ne_refused (r : Refusal) : ownStep E s ≠ .refused r := by
  unfold ownStep
  split
  · simp
  · simp
  · exact uPad_ne_refused r
  · exact uXor_ne_refused r
  · rcases primitiveStep_eq (E := E) (s := s) with ⟨_, ds, h⟩ | ⟨_, ds, h⟩ <;> rw [h]
    · simp
    · exact uRsp_ne_refused r

theorem acceptWord_ne_refused (w : Word) (r : Refusal) : acceptWord w s ≠ .refused r := by
  unfold acceptWord
  split
  · simp
  · exact exec_ne_refused _ r

theorem stepWith_ne_refused (r : Refusal) : stepWith E s ≠ .refused r := by
  rcases stepWith_eq E s with ⟨rest, _, h⟩ | ⟨w, rest, _, _, h⟩ | ⟨moves, h⟩ <;> rw [h]
  · simp
  · exact acceptWord_ne_refused w r
  · exact ownStep_ne_refused r

/-! ## A well-kept state stops nowhere -/

/-- R40 item 4 bounds the staged IV bytes (R26). -/
theorem WellKept.ivs_le (h : WellKept s) : s.ivs.length ≤ ivsMax :=
  fits_iff.1 (wf_iff.1 h.buffers).2.1 ivsMax rfl

/-- Block IDX lies inside PBUF: PBUF holds NBLK blocks and IDX is below NBLK. -/
theorem InLoop.block_le (h : InLoop s) : s.idx * s.bsz.toNat + s.bsz.toNat ≤ s.pbuf.length := by
  calc s.idx * s.bsz.toNat + s.bsz.toNat = (s.idx + 1) * s.bsz.toNat := (Nat.succ_mul _ _).symm
    _ ≤ s.nblk * s.bsz.toNat := Nat.mul_le_mul_right _ h.idx
    _ = s.pbuf.length := h.pbuf.symm

theorem WellKept.not_ownStop (hk : WellKept s) : ¬ OwnStop s f := by
  intro h
  cases f with
  | ivTooLong => exact h
  | padUndefined =>
    obtain ⟨hp, hz⟩ := h
    have hu := hk.unconf.2 hz
    rw [hp] at hu
    cases hu
  | noPreviousBlock =>
    obtain ⟨hp, hn⟩ := h
    obtain ⟨p, hs, _⟩ := (hk.loop (.inl hp)).prev
    rw [hn] at hs
    cases hs
  | blockOutOfRange =>
    obtain ⟨hp, _, hlt⟩ := h
    exact Nat.not_lt.2 (hk.loop (.inl hp)).block_le hlt
  | noRequest =>
    obtain ⟨hp, _, hn⟩ := h
    obtain ⟨m, _, _, hs⟩ := hk.cipher hp
    rw [hn] at hs
    cases hs

theorem WellKept.stepWith_ne_fault (hk : WellKept s) (f : Fault) : stepWith E s ≠ .fault f := by
  intro h
  rcases stepWith_fault h with ⟨_, _, _, hlong⟩ | hstop
  · exact Nat.not_lt.2 hk.ivs_le hlong
  · exact hk.not_ownStop hstop

/-- Settles O29: each of the five stops is an `OwnStop` or INIT's, and a well-kept state excludes them all. -/
theorem stopsWhereTheSpecGivesNoValue : Obligations.StopsWhereTheSpecGivesNoValue := by
  intro E s
  refine ⟨fun hlong => exec_fault.2 ⟨rfl, rfl, hlong⟩,
    fun hp hh hz => stepWith_fault_of_ownStop hh ⟨hp, hz⟩,
    fun hp hh hn => stepWith_fault_of_ownStop hh ⟨hp, hn⟩,
    fun hp hh hs hlt => stepWith_fault_of_ownStop hh ⟨hp, hs, hlt⟩,
    fun hp hh hd hn => stepWith_fault_of_ownStop hh ⟨hp, hd, hn⟩,
    fun f h => ?_, stepWith_ne_refused, WellKept.stepWith_ne_fault⟩
  rcases stepWith_fault h with hiv | hstop
  · exact .inl hiv
  · cases f with
    | ivTooLong => exact hstop.elim
    | padUndefined => exact .inr (.inl ⟨rfl, hstop⟩)
    | noPreviousBlock => exact .inr (.inr (.inl ⟨rfl, hstop⟩))
    | blockOutOfRange => exact .inr (.inr (.inr (.inl ⟨rfl, hstop⟩)))
    | noRequest => exact .inr (.inr (.inr (.inr ⟨rfl, hstop⟩)))

end Sys2Proof.Machine

/-! PROOFS. The state of the chainer (spec/10_state.md): the lifetime of the encryptor (R43), the secrets no command reads
(R22, R23, R39), the values after reset (R41) and the invariants of R40. First what commands and micro-steps do to the
encryptor, to the hidden registers, to OUT and to the record. -/

namespace Sys2Proof.Machine

variable {E : Primitive} {s s' : State} {i : Instr} {w : Word}

/-! ## The encryptor: KEY, IV and BSZ -/

/-- KEY, IV and BSZ, the encryptor that R43 speaks of. -/
def State.encryptor (s : State) : Bytes × Bytes × BitVec 8 := (s.key, s.iv, s.bsz)

theorem encryptor_eq_iff : s'.encryptor = s.encryptor ↔ s'.key = s.key ∧ s'.iv = s.iv ∧ s'.bsz = s.bsz := by
  simp [State.encryptor]

@[simp] theorem takeBlock_encryptor (c : Bytes) (s : State) : (takeBlock c s).encryptor = s.encryptor := by
  unfold takeBlock; split <;> rfl

@[simp] theorem takeAnswer_encryptor (a : Answer) (s : State) : (takeAnswer a s).encryptor = s.encryptor := by
  unfold takeAnswer
  split
  · rfl
  · split
    · exact takeBlock_encryptor _ _
    · rfl

theorem uPad_encryptor (h : uPad s = .next s') : s'.encryptor = s.encryptor := by
  rw [(uPad_next.1 h).2]; rfl

theorem uXor_encryptor (h : uXor s = .next s') : s'.encryptor = s.encryptor := by
  obtain ⟨p, blk, _, _, ⟨_, rfl⟩ | ⟨m, _, rfl⟩⟩ := uXor_next.1 h <;> rfl

theorem uRsp_encryptor (h : uRsp E s = .next s') : s'.encryptor = s.encryptor := by
  obtain ⟨r, _, rfl⟩ := uRsp_next.1 h
  exact takeAnswer_encryptor _ _

theorem primitiveStep_encryptor (h : primitiveStep E s = .next s') : s'.encryptor = s.encryptor := by
  rcases primitiveStep_next h with ⟨ds, rfl⟩ | ⟨ds, hr⟩
  · rfl
  · exact (uRsp_encryptor hr :)

/-- Only commands and reset write the encryptor. -/
theorem ownStep_encryptor (h : ownStep E s = .next s') : s'.encryptor = s.encryptor := by
  rcases ownStep_next h with ⟨_, rfl⟩ | ⟨_, hu⟩ | ⟨_, hx⟩ | ⟨_, hr⟩
  · rfl
  · exact uPad_encryptor hu
  · exact uXor_encryptor hx
  · exact primitiveStep_encryptor hr

/-- A command leaves the encryptor and its existence alone, or it is INIT on a staged IV, or CLR with bit 5 (R43). -/
theorem exec_encryptor (h : exec i s = .next s') :
    (s'.encryptor = s.encryptor ∧ (s'.phase = .unconf ↔ s.phase = .unconf)) ∨
    (i = .init ∧ s.ivs ≠ [] ∧ s.ivs.length ≤ ivsMax ∧ s' = respondDone (construct s)) ∨
    ∃ mask m, i = .clr mask ∧ clearMask mask = some m ∧ m.encryptor = true ∧
      s' = respondDone (clearEncryptor m (clearItems m s)) := by
  cases i <;> simp only [exec] at h
  case nop => rw [execNop_next.1 h]; exact .inl ⟨rfl, Iff.rfl⟩
  case keyb b => rcases execKeyb_next.1 h with ⟨_, rfl⟩ | ⟨_, rfl⟩ <;> exact .inl ⟨rfl, Iff.rfl⟩
  case ivb b => rcases execIvb_next.1 h with ⟨_, rfl⟩ | ⟨_, rfl⟩ <;> exact .inl ⟨rfl, Iff.rfl⟩
  case init =>
    rcases execInit_next.1 h with ⟨_, rfl⟩ | ⟨hne, hle, rfl⟩
    · exact .inl ⟨rfl, Iff.rfl⟩
    · exact .inr (.inl ⟨rfl, hne, hle, rfl⟩)
  case ptb b => rcases execPtb_next.1 h with ⟨_, rfl⟩ | ⟨_, rfl⟩ <;> exact .inl ⟨rfl, Iff.rfl⟩
  case enc =>
    rcases execEnc_next.1 h with ⟨_, rfl⟩ | ⟨hp, rfl⟩
    · exact .inl ⟨rfl, Iff.rfl⟩
    · exact .inl ⟨rfl, by simp [startOperation, hp]⟩
  case rdb => rcases execRdb_next.1 h with ⟨_, rfl⟩ | ⟨_, _, _, rfl⟩ <;> exact .inl ⟨rfl, Iff.rfl⟩
  case rds sel => rcases execRds_next.1 h with ⟨_, rfl⟩ | ⟨_, _, rfl⟩ <;> exact .inl ⟨rfl, Iff.rfl⟩
  case clr mask =>
    rcases execClr_next.1 h with ⟨_, rfl⟩ | ⟨m, hm, rfl⟩
    · exact .inl ⟨rfl, Iff.rfl⟩
    · by_cases he : m.encryptor = true
      · exact .inr (.inr ⟨mask, m, rfl, hm, he, rfl⟩)
      · exact .inl ⟨by simp [State.encryptor, he], by simp [he]⟩

/-- A legal mask is below `0x40`, and its bit 5 selects the encryptor (R202). -/
theorem clearMask_encryptor {mask : Byte} {m : ClearMask} (hm : clearMask mask = some m) (he : m.encryptor = true) :
    mask.toNat < 0x40 ∧ mask.getLsbD 5 = true := by
  unfold clearMask at hm
  split at hm
  next hz =>
    cases hm
    have hz' := congrArg BitVec.toNat hz
    rw [BitVec.extractLsb'_toNat, Nat.shiftRight_eq_div_pow] at hz'
    have := mask.isLt
    simp only [BitVec.ofNat_eq_ofNat, BitVec.toNat_ofNat] at hz'
    exact ⟨by omega, he⟩
  next => cases hm

/-- Settles O36: a step that is no reset is an accepted word, whose command is one of `exec_encryptor`'s three, or a step
without the host, which keeps the encryptor. -/
theorem encryptorIsFixedForItsLifetime : Obligations.EncryptorIsFixedForItsLifetime := by
  intro E s s' h
  rcases stepWith_next h with ⟨rest, hh, _⟩ | ⟨w, rest, hh, hb, hw⟩ | ⟨moves, ho, _⟩
  · exact .inr (.inl ⟨rest, hh⟩)
  · rcases acceptWord_next hw with ⟨_, rfl⟩ | ⟨i, hi, hx⟩
    · exact .inl ⟨rfl, rfl, rfl⟩
    · rcases exec_encryptor hx with ⟨he, _⟩ | ⟨rfl, hne, _, rfl⟩ | ⟨mask, m, rfl, hm, he, rfl⟩
      · exact .inl (encryptor_eq_iff.1 he)
      · have hword : w = 0x3000 := (encode_of_decode hi).symm
        exact .inr (.inr (.inl ⟨hb, by rw [hh, hword]; rfl, hne⟩))
      · obtain ⟨hlt, hbit⟩ := clearMask_encryptor hm he
        exact .inr (.inr (.inr ⟨hb, mask, hlt, hbit, by rw [hh, encode_of_decode hi]; simp⟩))
  · exact .inl (encryptor_eq_iff.1 (ownStep_encryptor ho :))

/-! ## The secrets -/

/-- `s` with KEY, IV, PBUF, PREV, MIX and REQ replaced, the pieces no response shows (R22, R23, R39). -/
def State.withSecrets (s : State) (key iv pbuf : Bytes) (prev mix : Option Bytes) (req : Option Request) : State :=
  { s with key := key, iv := iv, pbuf := pbuf, prev := prev, mix := mix, req := req }

/-- A state with its secrets forgotten. -/
def State.withoutSecrets (s : State) : State := s.withSecrets [] [] [] none none none

/-- What the host can tell of a state is left when its secrets are forgotten. -/
theorem visible_of_withoutSecrets {t t' : State} (h : t'.withoutSecrets = t.withoutSecrets) :
    t'.trace = t.trace ∧ t'.out = t.out ∧ t'.cause = t.cause ∧ t'.phase = t.phase :=
  ⟨(congrArg State.trace h :), (congrArg State.out h :), (congrArg State.cause h :),
   (congrArg State.phase h :)⟩

/-- Whatever the secrets are, a command ends in the same state but for them. -/
theorem exec_withSecrets {t : State} (key iv pbuf : Bytes) (prev mix : Option Bytes) (req : Option Request)
    (h : exec i s = .next t) :
    ∃ t', exec i (s.withSecrets key iv pbuf prev mix req) = .next t' ∧ t'.withoutSecrets = t.withoutSecrets := by
  cases i <;> simp only [exec] at h ⊢
  case nop => rw [execNop_next.1 h]; exact ⟨_, rfl, rfl⟩
  case keyb b =>
    rcases execKeyb_next.1 h with ⟨hf, rfl⟩ | ⟨hf, rfl⟩
    · exact ⟨_, execKeyb_next.2 (.inl ⟨hf, rfl⟩), rfl⟩
    · exact ⟨_, execKeyb_next.2 (.inr ⟨hf, rfl⟩), rfl⟩
  case ivb b =>
    rcases execIvb_next.1 h with ⟨hf, rfl⟩ | ⟨hf, rfl⟩
    · exact ⟨_, execIvb_next.2 (.inl ⟨hf, rfl⟩), rfl⟩
    · exact ⟨_, execIvb_next.2 (.inr ⟨hf, rfl⟩), rfl⟩
  case init =>
    rcases execInit_next.1 h with ⟨he, rfl⟩ | ⟨hne, hle, rfl⟩
    · exact ⟨_, execInit_next.2 (.inl ⟨he, rfl⟩), rfl⟩
    · exact ⟨_, execInit_next.2 (.inr ⟨hne, hle, rfl⟩), rfl⟩
  case ptb b =>
    rcases execPtb_next.1 h with ⟨hf, rfl⟩ | ⟨hf, rfl⟩
    · exact ⟨_, execPtb_next.2 (.inl ⟨hf, rfl⟩), rfl⟩
    · exact ⟨_, execPtb_next.2 (.inr ⟨hf, rfl⟩), rfl⟩
  case enc =>
    rcases execEnc_next.1 h with ⟨hp, rfl⟩ | ⟨hp, rfl⟩
    · exact ⟨_, execEnc_next.2 (.inl ⟨hp, rfl⟩), rfl⟩
    · exact ⟨_, execEnc_next.2 (.inr ⟨hp, rfl⟩), rfl⟩
  case rdb =>
    rcases execRdb_next.1 h with ⟨ho, rfl⟩ | ⟨d, rest, ho, rfl⟩
    · exact ⟨_, execRdb_next.2 (.inl ⟨ho, rfl⟩), rfl⟩
    · exact ⟨_, execRdb_next.2 (.inr ⟨d, rest, ho, rfl⟩), rfl⟩
  case rds sel =>
    rcases execRds_next.1 h with ⟨hr, rfl⟩ | ⟨r, hr, rfl⟩
    · exact ⟨_, execRds_next.2 (.inl ⟨hr, rfl⟩), rfl⟩
    · exact ⟨_, execRds_next.2 (.inr ⟨r, hr, rfl⟩), by cases r <;> rfl⟩
  case clr mask =>
    rcases execClr_next.1 h with ⟨hm, rfl⟩ | ⟨m, hm, rfl⟩
    · exact ⟨_, execClr_next.2 (.inl ⟨hm, rfl⟩), rfl⟩
    · refine ⟨_, execClr_next.2 (.inr ⟨m, hm, rfl⟩), ?_⟩
      unfold clearEncryptor
      split <;> rfl

/-- Settles O16: the two ends differ in the secrets alone, which are none of the responses, OUT, CAUSE and STATE. -/
theorem noCommandReadsTheSecrets : Obligations.NoCommandReadsTheSecrets := by
  intro i s t key iv pbuf prev mix req h
  obtain ⟨t', ht', hsame⟩ := exec_withSecrets key iv pbuf prev mix req h
  exact ⟨t', ht', visible_of_withoutSecrets hsame⟩

/-! ## What a command does to the hidden registers, OUT and the record -/

/-- The hidden registers of R39. -/
def State.hidden (s : State) : Bytes × Nat × Nat × Option Bytes × Option Bytes × Option Request :=
  (s.pbuf, s.idx, s.nblk, s.prev, s.mix, s.req)

theorem hiddenIdle_iff : HiddenIdle s ↔ s.hidden = ([], 0, 0, none, none, none) := by
  constructor
  · rintro ⟨hpbuf, hidx, hnblk, hprev, hmix, hreq⟩
    simp [State.hidden, *]
  · intro h
    simp only [State.hidden, Prod.mk.injEq] at h
    obtain ⟨hpbuf, hidx, hnblk, hprev, hmix, hreq⟩ := h
    exact ⟨hpbuf, hidx, hnblk, hprev, hmix, hreq⟩

theorem HiddenIdle.congr (h : HiddenIdle s) (he : s'.hidden = s.hidden) : HiddenIdle s' :=
  hiddenIdle_iff.2 (he.trans (hiddenIdle_iff.1 h))

@[simp] theorem clearItems_hidden (m : ClearMask) (s : State) : (clearItems m s).hidden = s.hidden := rfl

@[simp] theorem clearEncryptor_hidden (m : ClearMask) (s : State) : (clearEncryptor m s).hidden = s.hidden := by
  simp [State.hidden]

/-- What a command that is answered at once does: it leaves the hidden registers, takes nothing into OUT, sends one
response, and does not make the chainer busy. -/
structure AnsweredAtOnce (s s' : State) : Prop where
  hidden : s'.hidden = s.hidden
  out : s'.out <:+ s.out
  trace : ∃ w, s'.trace = s.trace ++ [.response w]
  busy : s.phase.busy = false → s'.phase.busy = false

theorem answeredAtOnce_commandFault (c : Cause) (s : State) : AnsweredAtOnce s (commandFault c s) :=
  ⟨rfl, List.suffix_refl _, ⟨_, rfl⟩, id⟩

theorem clearItems_out_suffix (m : ClearMask) (s : State) : (clearItems m s).out <:+ s.out := by
  rw [clearItems_out]
  split
  · exact List.nil_suffix
  · exact List.suffix_refl _

theorem clearEncryptor_not_busy {m : ClearMask} (h : s.phase.busy = false) :
    (clearEncryptor m s).phase.busy = false := by
  rw [clearEncryptor_phase]
  split
  · rfl
  · exact h

/-- Every command is answered at once, but for the ENC that starts an operation (R162). -/
theorem exec_answeredAtOnce (h : exec i s = .next s') :
    (i = .enc ∧ s.phase ≠ .unconf ∧ s' = startOperation s) ∨ AnsweredAtOnce s s' := by
  cases i <;> simp only [exec] at h
  case nop => rw [execNop_next.1 h]; exact .inr ⟨rfl, List.suffix_refl _, ⟨_, rfl⟩, id⟩
  case keyb b =>
    rcases execKeyb_next.1 h with ⟨_, rfl⟩ | ⟨_, rfl⟩
    · exact .inr (answeredAtOnce_commandFault _ _)
    · exact .inr ⟨rfl, List.suffix_refl _, ⟨_, rfl⟩, id⟩
  case ivb b =>
    rcases execIvb_next.1 h with ⟨_, rfl⟩ | ⟨_, rfl⟩
    · exact .inr (answeredAtOnce_commandFault _ _)
    · exact .inr ⟨rfl, List.suffix_refl _, ⟨_, rfl⟩, id⟩
  case init =>
    rcases execInit_next.1 h with ⟨_, rfl⟩ | ⟨_, _, rfl⟩
    · exact .inr (answeredAtOnce_commandFault _ _)
    · exact .inr ⟨rfl, List.suffix_refl _, ⟨_, rfl⟩, fun _ => rfl⟩
  case ptb b =>
    rcases execPtb_next.1 h with ⟨_, rfl⟩ | ⟨_, rfl⟩
    · exact .inr (answeredAtOnce_commandFault _ _)
    · exact .inr ⟨rfl, List.suffix_refl _, ⟨_, rfl⟩, id⟩
  case enc =>
    rcases execEnc_next.1 h with ⟨_, rfl⟩ | ⟨hp, rfl⟩
    · exact .inr (answeredAtOnce_commandFault _ _)
    · exact .inl ⟨rfl, hp, rfl⟩
  case rdb =>
    rcases execRdb_next.1 h with ⟨_, rfl⟩ | ⟨d, rest, ho, rfl⟩
    · exact .inr ⟨rfl, List.suffix_refl _, ⟨_, rfl⟩, id⟩
    · exact .inr ⟨rfl, by rw [ho]; exact List.suffix_cons d rest, ⟨_, rfl⟩, id⟩
  case rds sel =>
    rcases execRds_next.1 h with ⟨_, rfl⟩ | ⟨r, _, rfl⟩
    · exact .inr (answeredAtOnce_commandFault _ _)
    · exact .inr ⟨rfl, List.suffix_refl _, ⟨_, rfl⟩, id⟩
  case clr mask =>
    rcases execClr_next.1 h with ⟨_, rfl⟩ | ⟨m, _, rfl⟩
    · exact .inr (answeredAtOnce_commandFault _ _)
    · refine .inr ⟨clearEncryptor_hidden m _, ?_, ⟨0x0000, by simp⟩, clearEncryptor_not_busy (s := clearItems m s)⟩
      rw [respondDone_out, clearEncryptor_out]
      exact clearItems_out_suffix m s

/-! ## What U_RSP does -/

/-- An answer ends the operation in a failure, or is a block of the right length. -/
theorem takeAnswer_cases (a : Answer) (s : State) :
    (∃ e, takeAnswer a s = endFail e s) ∨
    ∃ c, a = .ok c ∧ c.length = s.bsz.toNat ∧ takeAnswer a s = takeBlock c s := by
  cases a with
  | fail e => exact .inl ⟨e, takeAnswer_fail e⟩
  | ok c =>
    by_cases hc : c.length = s.bsz.toNat
    · exact .inr ⟨c, rfl, hc, takeAnswer_good hc⟩
    · exact .inl ⟨.invalidBlockSize, takeAnswer_wrongLength hc⟩

theorem takeBlock_last {c : Bytes} (h : s.idx + 1 = s.nblk) :
    takeBlock c s = endOk { s with out := s.out ++ c, req := none } := if_pos h

theorem takeBlock_notLast {c : Bytes} (h : s.idx + 1 ≠ s.nblk) :
    takeBlock c s = { s with out := s.out ++ c, req := none, prev := some c, idx := s.idx + 1, phase := .xor } :=
  if_neg h

/-- U_RSP has three ends: a failure, the last block, and a block with more to come. -/
theorem uRsp_cases (h : uRsp E s = .next s') : ∃ r, s.req = some r ∧
    ((∃ e, s' = endFail e (s.record (.answer (E r.key r.block)))) ∨
     ∃ c, E r.key r.block = .ok c ∧ c.length = s.bsz.toNat ∧
      ((s.idx + 1 = s.nblk ∧
         s' = endOk { s.record (.answer (.ok c)) with out := s.out ++ c, req := none }) ∨
       (s.idx + 1 ≠ s.nblk ∧
         s' = { s.record (.answer (.ok c)) with
           out := s.out ++ c, req := none, prev := some c, idx := s.idx + 1, phase := .xor }))) := by
  obtain ⟨r, hr, rfl⟩ := uRsp_next.1 h
  refine ⟨r, hr, ?_⟩
  rcases takeAnswer_cases (E r.key r.block) (s.record (.answer (E r.key r.block))) with ⟨e, he⟩ | ⟨c, hE, hc, hb⟩
  · exact .inl ⟨e, he⟩
  · refine .inr ⟨c, hE, hc, ?_⟩
    rw [hb, hE]
    by_cases hlast : s.idx + 1 = s.nblk
    · exact .inl ⟨hlast, takeBlock_last hlast⟩
    · exact .inr ⟨hlast, takeBlock_notLast hlast⟩

/-! ## The encryptor and STATE: R40 items 1 and 2 -/

/-- R40 items 1 and 2: the encryptor's form, and that STATE says whether it exists. -/
structure EncryptorKept (s : State) : Prop where
  iv : s.iv.length = s.bsz.toNat
  unconf : s.phase = .unconf ↔ s.bsz = 0
  noKey : s.phase = .unconf → s.key = [] ∧ s.iv = []

theorem WellKept.encryptorKept (h : WellKept s) : EncryptorKept s := ⟨h.iv, h.unconf, h.noKey⟩

theorem EncryptorKept.congr (h : EncryptorKept s) (he : s'.encryptor = s.encryptor)
    (hp : s'.phase = .unconf ↔ s.phase = .unconf) : EncryptorKept s' := by
  obtain ⟨hkey, hiv, hbsz⟩ := encryptor_eq_iff.1 he
  refine ⟨?_, ?_, ?_⟩
  · rw [hiv, hbsz]; exact h.iv
  · rw [hp, hbsz]; exact h.unconf
  · rw [hp, hkey, hiv]; exact h.noKey

/-- INIT's encryptor: 1 to 255 IV bytes fit BSZ (R122). -/
theorem encryptorKept_construct (hne : s.ivs ≠ []) (hle : s.ivs.length ≤ ivsMax) :
    EncryptorKept (respondDone (construct s)) := by
  have hpos : 0 < s.ivs.length := List.length_pos_iff.2 hne
  have hsize : (BitVec.ofNat 8 s.ivs.length).toNat = s.ivs.length := by
    simp only [BitVec.toNat_ofNat, ivsMax] at *
    omega
  have hbsz : BitVec.ofNat 8 s.ivs.length ≠ 0 := by
    intro hz
    rw [hz] at hsize
    simp only [BitVec.ofNat_eq_ofNat, BitVec.toNat_ofNat, Nat.zero_mod] at hsize
    omega
  exact ⟨hsize.symm, by simpa using hbsz, by simp⟩

/-- CLR with bit 5 ends the encryptor's lifetime (R202, R43). -/
theorem encryptorKept_clearEncryptor {m : ClearMask} (he : m.encryptor = true) :
    EncryptorKept (respondDone (clearEncryptor m s)) := by
  refine ⟨?_, ?_, ?_⟩ <;> simp [he]

theorem exec_encryptorKept (hk : EncryptorKept s) (h : exec i s = .next s') : EncryptorKept s' := by
  rcases exec_encryptor h with ⟨he, hp⟩ | ⟨_, hne, hle, rfl⟩ | ⟨_, m, _, _, he, rfl⟩
  · exact hk.congr he hp
  · exact encryptorKept_construct hne hle
  · exact encryptorKept_clearEncryptor he

/-! ## Well-kept states by STATE -/

/-- In UNCONF and READY the hidden registers are idle, which is all that items 5 to 7 ask. -/
theorem wellKept_of_quiescent (hb : s.phase.busy = false) (he : EncryptorKept s) (hw : Memory.wf s = true)
    (hi : HiddenIdle s) : WellKept s where
  iv := he.iv
  unconf := he.unconf
  noKey := he.noKey
  buffers := hw
  quiescent _ := hi
  padding hp := by rw [hp] at hb; cases hb
  loop hp := by rcases hp with hp | hp <;> rw [hp] at hb <;> cases hb
  cipher hp := by rw [hp] at hb; cases hb
  noRequest _ := hi.req

/-- In XOR no request is outstanding. -/
theorem wellKept_of_xor (hp : s.phase = .xor) (he : EncryptorKept s) (hw : Memory.wf s = true) (hl : InLoop s)
    (hr : s.req = none) : WellKept s where
  iv := he.iv
  unconf := he.unconf
  noKey := he.noKey
  buffers := hw
  quiescent hb := by rw [hp] at hb; cases hb
  padding hq := by rw [hp] at hq; cases hq
  loop _ := hl
  cipher hq := by rw [hp] at hq; cases hq
  noRequest _ := hr

/-- The model's own fields for the host, the primitive's speed and the record are no part of the invariants. -/
theorem wellKept_ownFields (h : WellKept s) (moves : List HostMove) (ds : List Delay) (es : List Event) :
    WellKept { s with host := moves, delays := ds, trace := es } where
  iv := h.iv
  unconf := h.unconf
  noKey := h.noKey
  buffers := h.buffers
  quiescent hb := (h.quiescent hb).congr rfl
  padding := h.padding
  loop hp := by
    obtain ⟨hpbuf, hnblk, hidx, hprev, hout⟩ := h.loop hp
    exact ⟨hpbuf, hnblk, hidx, hprev, hout⟩
  cipher := h.cipher
  noRequest := h.noRequest

theorem WellKept.record (h : WellKept s) (e : Event) : WellKept (s.record e) :=
  wellKept_ownFields h s.host s.delays (s.trace ++ [e])

theorem wellKept_applyReset (s : State) : WellKept (applyReset s) :=
  wellKept_of_quiescent rfl ⟨rfl, by simp, by simp⟩ (wf_applyReset s) ⟨rfl, rfl, rfl, rfl, rfl, rfl⟩

theorem WellKept.bsz_pos (h : WellKept s) (hb : s.phase.busy = true) : 0 < s.bsz.toNat := by
  refine Nat.pos_of_ne_zero fun hz => ?_
  have hu : s.phase = .unconf := h.unconf.2 (BitVec.eq_of_toNat_eq hz)
  rw [hu] at hb
  cases hb

/-- A micro-step leaves a busy STATE for READY or another busy one, never for UNCONF (R168). -/
theorem WellKept.encryptorKept_of_busy (h : WellKept s) (hb : s.phase.busy = true)
    (he : s'.encryptor = s.encryptor) (hp : s'.phase ≠ .unconf) : EncryptorKept s' := by
  refine h.encryptorKept.congr he ⟨fun hu => absurd hu hp, fun hu => ?_⟩
  rw [hu] at hb
  cases hb

/-! ## Every step keeps the invariants -/

theorem wellKept_startOperation (hk : WellKept s) (hb : s.phase.busy = false) (hp : s.phase ≠ .unconf) :
    WellKept (startOperation s) := by
  have he : EncryptorKept (startOperation s) :=
    hk.encryptorKept.congr rfl ⟨fun hu => (by cases hu), fun hu => absurd hu hp⟩
  obtain ⟨_, hidx, hnblk, hprev, hmix, hreq⟩ := hk.quiescent hb
  exact {
    iv := he.iv
    unconf := he.unconf
    noKey := he.noKey
    buffers := wf_startOperation hk.buffers
    quiescent := fun h => by cases h
    padding := fun _ => ⟨hidx, hnblk, hprev, hmix, rfl⟩
    loop := fun h => by rcases h with h | h <;> cases h
    cipher := fun h => by cases h
    noRequest := fun _ => hreq }

theorem exec_wellKept (hk : WellKept s) (hb : s.phase.busy = false) (h : exec i s = .next s') : WellKept s' := by
  rcases exec_answeredAtOnce h with ⟨_, hp, rfl⟩ | ha
  · exact wellKept_startOperation hk hb hp
  · exact wellKept_of_quiescent (ha.busy hb) (exec_encryptorKept hk.encryptorKept h) (exec_wf h hk.buffers)
      ((hk.quiescent hb).congr ha.hidden)

theorem wellKept_commandFault (hk : WellKept s) (hb : s.phase.busy = false) (c : Cause) :
    WellKept (commandFault c s) :=
  wellKept_of_quiescent hb (hk.encryptorKept.congr rfl Iff.rfl) hk.buffers
    ((hk.quiescent hb).congr rfl)

theorem acceptWord_wellKept (hk : WellKept s) (hb : s.phase.busy = false) (h : acceptWord w s = .next s') :
    WellKept s' := by
  rcases acceptWord_next h with ⟨_, rfl⟩ | ⟨i, _, hx⟩
  · exact wellKept_commandFault (hk.record _) hb _
  · exact exec_wellKept (hk.record _) hb hx

theorem pad_length (d : Bytes) (b : Nat) : (pad d b).length = d.length + padLen d b := by
  simp [pad, rep]

/-- Padding fills up to the next whole block (R140). -/
theorem length_add_padLen (d : Bytes) {b : Nat} (hb : 0 < b) : d.length + padLen d b = (d.length / b + 1) * b := by
  have hsplit : d.length / b * b + d.length % b = d.length := Nat.div_add_mod' _ _
  have hlt : d.length % b < b := Nat.mod_lt _ hb
  rw [Nat.succ_mul, padLen]
  omega

/-- U_PAD enters the loop at block 0, with IV as the previous block (R141). -/
theorem uPad_wellKept (hk : WellKept s) (hp : s.phase = .pad) (h : uPad s = .next s') : WellKept s' := by
  have hbusy : s.phase.busy = true := by rw [hp]; rfl
  have hb := hk.bsz_pos hbusy
  obtain ⟨_, _, _, _, hout⟩ := hk.padding hp
  have hblocks : (s.pbuf.length + padLen s.pbuf s.bsz.toNat) / s.bsz.toNat = s.pbuf.length / s.bsz.toNat + 1 := by
    rw [length_add_padLen _ hb, Nat.mul_div_cancel _ hb]
  have he := hk.encryptorKept_of_busy hbusy (uPad_encryptor h)
  obtain ⟨_, rfl⟩ := uPad_next.1 h
  refine wellKept_of_xor rfl (he (by simp)) hk.buffers ?_ (hk.noRequest (by simp [hp]))
  exact {
    pbuf := by rw [pad_length, hblocks, length_add_padLen _ hb]
    nblk := by simp [hblocks]
    idx := by simp [hblocks]
    prev := ⟨s.iv, rfl, hk.iv⟩
    out := by simp [hout] }

/-- In the loop U_XOR finds a block and a PREV of the same length, so it makes a request (R152). -/
theorem uXor_inLoop (hl : InLoop s) (h : uXor s = .next s') :
    ∃ p mixed, s.prev = some p ∧ xorBytes (slice s.pbuf (s.idx * s.bsz.toNat) s.bsz.toNat) p = some mixed ∧
      mixed.length = s.bsz.toNat ∧ s' = sendRequest mixed s := by
  obtain ⟨p, blk, hp, hblk, hx⟩ := uXor_next.1 h
  obtain ⟨p', hp', hplen⟩ := hl.prev
  obtain rfl : p = p' := Option.some.inj (hp.symm.trans hp')
  have hlen : blk.length = p.length := by rw [memRead_length hblk, hplen]
  rcases hx with ⟨hnone, _⟩ | ⟨mixed, hmixed, rfl⟩
  · exact absurd hlen (xorBytes_eq_none.1 hnone)
  · refine ⟨p, mixed, hp, ?_, (xorBytes_length hmixed).2.trans hplen, rfl⟩
    rw [← (memRead_eq_some.1 hblk).2]
    exact hmixed

theorem uXor_wellKept (hk : WellKept s) (hp : s.phase = .xor) (h : uXor s = .next s') : WellKept s' := by
  have hl := hk.loop (.inl hp)
  have he := hk.encryptorKept_of_busy (by rw [hp]; rfl) (uXor_encryptor h)
  obtain ⟨p, mixed, _, _, hlen, rfl⟩ := uXor_inLoop hl h
  replace he := he (by simp)
  exact {
    iv := he.iv
    unconf := he.unconf
    noKey := he.noKey
    buffers := hk.buffers
    quiescent := fun hq => by cases hq
    padding := fun hq => by cases hq
    loop := fun _ => ⟨hl.pbuf, hl.nblk, hl.idx, hl.prev, hl.out⟩
    cipher := fun _ => ⟨mixed, rfl, hlen, rfl⟩
    noRequest := fun hq => absurd rfl hq }

/-- U_RSP ends the operation with the hidden registers idle, or goes on to the next block (R163, R166, R167). -/
theorem uRsp_wellKept (hk : WellKept s) (hp : s.phase = .cipher) (h : uRsp E s = .next s') : WellKept s' := by
  have hl := hk.loop (.inr hp)
  have he := hk.encryptorKept_of_busy (by rw [hp]; rfl) (uRsp_encryptor h)
  obtain ⟨r, _, ⟨e, rfl⟩ | ⟨c, _, hc, ⟨_, rfl⟩ | ⟨hlast, rfl⟩⟩⟩ := uRsp_cases h
  · exact wellKept_of_quiescent rfl (he (by simp)) hk.buffers ⟨rfl, rfl, rfl, rfl, rfl, rfl⟩
  · exact wellKept_of_quiescent rfl (he (by simp)) hk.buffers ⟨rfl, rfl, rfl, rfl, rfl, rfl⟩
  · refine wellKept_of_xor rfl (he (by simp)) hk.buffers ?_ rfl
    exact {
      pbuf := hl.pbuf
      nblk := hl.nblk
      idx := Nat.lt_of_le_of_ne hl.idx hlast
      prev := ⟨c, rfl, hc⟩
      out := by simp [hl.out, hc, Nat.succ_mul] }

theorem primitiveStep_wellKept (hk : WellKept s) (hp : s.phase = .cipher) (h : primitiveStep E s = .next s') :
    WellKept s' := by
  rcases primitiveStep_next h with ⟨ds, rfl⟩ | ⟨ds, hr⟩
  · exact wellKept_ownFields hk s.host ds s.trace
  · exact uRsp_wellKept (wellKept_ownFields hk s.host ds s.trace) hp hr

theorem ownStep_wellKept (hk : WellKept s) (h : ownStep E s = .next s') : WellKept s' := by
  rcases ownStep_next h with ⟨_, rfl⟩ | ⟨hp, hu⟩ | ⟨hp, hx⟩ | ⟨hp, hr⟩
  · exact hk
  · exact uPad_wellKept hk hp hu
  · exact uXor_wellKept hk hp hx
  · exact primitiveStep_wellKept hk hp hr

theorem stepWith_wellKept (hk : WellKept s) (h : stepWith E s = .next s') : WellKept s' := by
  rcases stepWith_next h with ⟨rest, _, rfl⟩ | ⟨w, rest, _, hb, hw⟩ | ⟨moves, ho, _⟩
  · exact wellKept_applyReset _
  · exact acceptWord_wellKept (wellKept_host hk rest) hb hw
  · exact ownStep_wellKept (wellKept_host hk moves) ho

/-- Settles O40: reset, each command in a quiescent state and each micro-step keeps the invariants. -/
theorem everyStepKeepsTheInvariants : Obligations.EveryStepKeepsTheInvariants :=
  fun _ _ hk h => stepWith_wellKept hk h

/-! ## OUT and the record: R40 item 8 -/

/-- R40 item 8 with the chainer not busy: OUT is empty, or an unread tail of the ciphertext of the record's most recent
successful operation, after which the record holds no request. -/
def UnreadCiphertext (E : Primitive) (out : Bytes) (trace : List Event) : Prop :=
  out = [] ∨ ∃ key iv pt ct before later, 1 ≤ iv.length ∧ iv.length ≤ 255 ∧ cbc E key iv pt = .ok ct ∧ out <:+ ct ∧
    trace = before ++ operationEvents E key iv pt ++ later ∧ ∀ r, .request r ∉ later

/-- R40 item 8 inside the loop: the rest of R160's loop completes OUT to the ciphertext of the message in progress, and
the record since its ENC to that operation's traffic. -/
def LoopCompletesCbc (E : Primitive) (s : State) : Prop :=
  ∃ m p before made, s.pbuf = pad m s.bsz.toNat ∧ s.prev = some p ∧
    cbcLoop E s.key s.pbuf s.bsz.toNat (s.nblk - s.idx) s.idx p s.out = cbc E s.key s.iv m ∧
    made ++ cbcTrafficLoop E s.key s.pbuf s.bsz.toNat (s.nblk - s.idx) s.idx p = cbcTraffic E s.key s.iv m ∧
    s.trace = before ++ [.command 0x5000] ++ trafficEvents made ++ pendingEvents s

/-- Reading from OUT and passing events other than requests keep what OUT is a tail of. -/
theorem UnreadCiphertext.mono {out out' : Bytes} {trace events : List Event} (h : UnreadCiphertext E out trace)
    (hout : out' <:+ out) (hev : ∀ r, .request r ∉ events) : UnreadCiphertext E out' (trace ++ events) := by
  rcases h with rfl | ⟨key, iv, pt, ct, before, later, hpos, hle, hcbc, hsuf, rfl, hlater⟩
  · exact .inl (List.suffix_nil.1 hout)
  · refine .inr ⟨key, iv, pt, ct, before, later ++ events, hpos, hle, hcbc, hout.trans hsuf, by simp, fun r hr => ?_⟩
    rcases List.mem_append.1 hr with hr | hr
    · exact hlater r hr
    · exact hev r hr

theorem outIsCiphertext_of_quiescent (hb : s.phase.busy = false) (h : UnreadCiphertext E s.out s.trace) :
    OutIsCiphertext E s where
  quiescent _ := h
  padding hp := by rw [hp] at hb; cases hb
  loop hp := by rcases hp with hp | hp <;> rw [hp] at hb <;> cases hb
  request hp := by rw [hp] at hb; cases hb

theorem outIsCiphertext_of_xor (hp : s.phase = .xor) (h : LoopCompletesCbc E s) : OutIsCiphertext E s where
  quiescent hb := by rw [hp] at hb; cases hb
  padding hq := by rw [hp] at hq; cases hq
  loop _ := h
  request hq := by rw [hp] at hq; cases hq

/-- The host's moves and the delays are no part of the invariant on OUT. -/
theorem outIsCiphertext_hostAndDelays (h : OutIsCiphertext E s) (moves : List HostMove) (ds : List Delay) :
    OutIsCiphertext E { s with host := moves, delays := ds } :=
  ⟨h.quiescent, h.padding, h.loop, h.request⟩

theorem outIsCiphertext_applyReset (s : State) : OutIsCiphertext E (applyReset s) :=
  outIsCiphertext_of_quiescent rfl (.inl rfl)

/-- A command that is answered at once takes nothing into OUT and makes no request. -/
theorem AnsweredAtOnce.outIsCiphertext (ha : AnsweredAtOnce s s') (hb : s.phase.busy = false)
    (h : UnreadCiphertext E s.out s.trace) : OutIsCiphertext E s' := by
  obtain ⟨w, htrace⟩ := ha.trace
  refine outIsCiphertext_of_quiescent (ha.busy hb) ?_
  rw [htrace]
  exact h.mono ha.out (by simp)

/-- An accepted word is answered at once, or it is the ENC of an operation, with which the record then ends. -/
theorem acceptWord_outIsCiphertext (ho : OutIsCiphertext E s) (hb : s.phase.busy = false)
    (h : acceptWord w s = .next s') : OutIsCiphertext E s' := by
  have hunread : UnreadCiphertext E (s.record (.command w)).out (s.record (.command w)).trace :=
    UnreadCiphertext.mono (ho.quiescent hb) (List.suffix_refl _) (by simp)
  rcases acceptWord_next h with ⟨_, rfl⟩ | ⟨i, hi, hx⟩
  · exact (answeredAtOnce_commandFault _ _).outIsCiphertext hb hunread
  · rcases exec_answeredAtOnce hx with ⟨rfl, _, rfl⟩ | ha
    · obtain rfl : 0x5000 = w := encode_of_decode hi
      exact {
        quiescent := fun hq => by cases hq
        padding := fun _ => ⟨s.trace, rfl⟩
        loop := fun hq => by rcases hq with hq | hq <;> cases hq
        request := fun hq => by cases hq }
    · exact ha.outIsCiphertext hb hunread

/-! ## The loop of R160, a block at a time -/

theorem cbcLoop_good {key padded prev out mixed c : Bytes} {b left n : Nat}
    (hx : xorBytes (slice padded (n * b) b) prev = some mixed) (hE : E key mixed = .ok c) (hc : c.length = b) :
    cbcLoop E key padded b (left + 1) n prev out = cbcLoop E key padded b left (n + 1) c (out ++ c) := by
  simp [cbcLoop, hx, hE, hc]

theorem cbcTrafficLoop_good {key padded prev mixed c : Bytes} {b left n : Nat}
    (hx : xorBytes (slice padded (n * b) b) prev = some mixed) (hE : E key mixed = .ok c) (hc : c.length = b) :
    cbcTrafficLoop E key padded b (left + 1) n prev =
      (⟨key, mixed⟩, .ok c) :: cbcTrafficLoop E key padded b left (n + 1) c := by
  simp [cbcTrafficLoop, hx, hE, hc]

/-- What U_PAD loads is where R160's loop begins. -/
theorem uPad_outIsCiphertext (hk : WellKept s) (ho : OutIsCiphertext E s) (hp : s.phase = .pad)
    (h : uPad s = .next s') : OutIsCiphertext E s' := by
  obtain ⟨before, htrace⟩ := ho.padding hp
  obtain ⟨_, _, _, _, hout⟩ := hk.padding hp
  have hreq : s.req = none := hk.noRequest (by simp [hp])
  obtain ⟨_, rfl⟩ := uPad_next.1 h
  refine outIsCiphertext_of_xor rfl ⟨s.pbuf, s.iv, before, [], rfl, rfl, ?_, ?_, ?_⟩
  · simp [cbc, hk.iv, hout, pad_length]
  · simp [cbcTraffic, hk.iv, pad_length]
  · simp [htrace, pendingEvents, hreq]

/-- U_XOR's request is the one that the rest of R160's loop makes next. -/
theorem uXor_outIsCiphertext (hk : WellKept s) (ho : OutIsCiphertext E s) (hp : s.phase = .xor)
    (h : uXor s = .next s') : OutIsCiphertext E s' := by
  obtain ⟨m, p, before, made, hpbuf, hprev, hloop, htraffic, htrace⟩ := ho.loop (.inl hp)
  have hreq : s.req = none := hk.noRequest (by simp [hp])
  obtain ⟨q, mixed, hq, hmixed, _, rfl⟩ := uXor_inLoop (hk.loop (.inl hp)) h
  refine ⟨fun hb => (by cases hb), fun hb => (by cases hb), fun _ => ?_, fun _ => ⟨q, mixed, hq, rfl, hmixed⟩⟩
  refine ⟨m, p, before, made, hpbuf, hprev, hloop, htraffic, ?_⟩
  rw [sendRequest_trace, htrace, pendingEvents_none hreq, pendingEvents_some (sendRequest_req mixed s),
    List.append_nil]

/-- A good answer advances R160's loop by one block, and the record by its request and answer. -/
theorem loop_after_answer {c : Bytes} {r : Request} (hk : WellKept s) (ho : OutIsCiphertext E s)
    (hp : s.phase = .cipher) (hr : s.req = some r) (hE : E r.key r.block = .ok c) (hc : c.length = s.bsz.toNat) :
    ∃ m before made, s.pbuf = pad m s.bsz.toNat ∧
      cbcLoop E s.key s.pbuf s.bsz.toNat (s.nblk - (s.idx + 1)) (s.idx + 1) c (s.out ++ c) = cbc E s.key s.iv m ∧
      made ++ cbcTrafficLoop E s.key s.pbuf s.bsz.toNat (s.nblk - (s.idx + 1)) (s.idx + 1) c =
        cbcTraffic E s.key s.iv m ∧
      s.trace ++ [.answer (.ok c)] = before ++ [.command 0x5000] ++ trafficEvents made := by
  obtain ⟨m, p, before, made, hpbuf, hprev, hloop, htraffic, htrace⟩ := ho.loop (.inr hp)
  obtain ⟨q, mixed, hq, hreq, hmixed⟩ := ho.request hp
  obtain rfl : p = q := Option.some.inj (hprev.symm.trans hq)
  obtain rfl : r = ⟨s.key, mixed⟩ := Option.some.inj (hr.symm.trans hreq)
  have hleft : s.nblk - s.idx = s.nblk - (s.idx + 1) + 1 := by
    have := (hk.loop (.inr hp)).idx
    omega
  rw [hleft, cbcLoop_good hmixed hE hc] at hloop
  rw [hleft, cbcTrafficLoop_good hmixed hE hc] at htraffic
  refine ⟨m, before, made ++ [(⟨s.key, mixed⟩, .ok c)], hpbuf, hloop, by simpa using htraffic, ?_⟩
  rw [htrace, pendingEvents_some hreq]
  simp

/-- U_RSP empties OUT at a failure, completes the ciphertext at the last block, and else carries the loop on. -/
theorem uRsp_outIsCiphertext (hk : WellKept s) (ho : OutIsCiphertext E s) (hp : s.phase = .cipher)
    (h : uRsp E s = .next s') : OutIsCiphertext E s' := by
  obtain ⟨r, hr, ⟨e, rfl⟩ | ⟨c, hE, hc, hend⟩⟩ := uRsp_cases h
  · exact outIsCiphertext_of_quiescent rfl (.inl rfl)
  obtain ⟨m, before, made, hpbuf, hloop, htraffic, htrace⟩ := loop_after_answer hk ho hp hr hE hc
  rcases hend with ⟨hlast, rfl⟩ | ⟨_, rfl⟩
  · have hpos := hk.bsz_pos (by rw [hp]; rfl)
    have hlt := s.bsz.isLt
    rw [hlast, Nat.sub_self] at hloop htraffic
    refine outIsCiphertext_of_quiescent rfl
      (.inr ⟨s.key, s.iv, m, s.out ++ c, before, [], by rw [hk.iv]; exact hpos, by rw [hk.iv]; omega, hloop.symm,
        List.suffix_refl _, ?_, by simp⟩)
    rw [endOk_trace, record_trace, htrace, operationEvents, ← htraffic]
    simp [cbcTrafficLoop]
  · exact outIsCiphertext_of_xor rfl ⟨m, c, before, made, hpbuf, rfl, hloop, htraffic, by simp [htrace, pendingEvents]⟩

theorem primitiveStep_outIsCiphertext (hk : WellKept s) (ho : OutIsCiphertext E s) (hp : s.phase = .cipher)
    (h : primitiveStep E s = .next s') : OutIsCiphertext E s' := by
  rcases primitiveStep_next h with ⟨ds, rfl⟩ | ⟨ds, hr⟩
  · exact outIsCiphertext_hostAndDelays ho s.host ds
  · exact uRsp_outIsCiphertext (wellKept_ownFields hk s.host ds s.trace)
      (outIsCiphertext_hostAndDelays ho s.host ds) hp hr

theorem ownStep_outIsCiphertext (hk : WellKept s) (ho : OutIsCiphertext E s) (h : ownStep E s = .next s') :
    OutIsCiphertext E s' := by
  rcases ownStep_next h with ⟨_, rfl⟩ | ⟨hp, hu⟩ | ⟨hp, hx⟩ | ⟨hp, hr⟩
  · exact ho
  · exact uPad_outIsCiphertext hk ho hp hu
  · exact uXor_outIsCiphertext hk ho hp hx
  · exact primitiveStep_outIsCiphertext hk ho hp hr

theorem stepWith_outIsCiphertext (hk : WellKept s) (ho : OutIsCiphertext E s) (h : stepWith E s = .next s') :
    OutIsCiphertext E s' := by
  rcases stepWith_next h with ⟨rest, _, rfl⟩ | ⟨w, rest, _, hb, hw⟩ | ⟨moves, hown, _⟩
  · exact outIsCiphertext_applyReset _
  · exact acceptWord_outIsCiphertext (outIsCiphertext_hostAndDelays ho rest s.delays) hb hw
  · exact ownStep_outIsCiphertext (wellKept_host hk moves) (outIsCiphertext_hostAndDelays ho moves s.delays) hown

/-- Settles O42: the loop of R160 and the record advance together, block by block, and after the last block a command only
reads from OUT or empties it. -/
theorem readableOutIsCiphertext : Obligations.ReadableOutIsCiphertext :=
  fun _ _ _ hk ho h => ⟨stepWith_wellKept hk h, stepWith_outIsCiphertext hk ho h⟩

/-! ## Reset -/

/-- Settles O25: R41's table, piece by piece, and the three values derived from it. -/
theorem resetStateHasTheResetValues : Obligations.ResetStateHasTheResetValues := by
  refine ⟨rfl, rfl, rfl, rfl, rfl, rfl, rfl, rfl, rfl, rfl, rfl, rfl, rfl, rfl, rfl, ?_, rfl, ?_⟩ <;> decide

theorem wellKept_reset : WellKept State.reset :=
  wellKept_of_quiescent rfl ⟨rfl, Iff.intro (fun _ => rfl) (fun _ => rfl), fun _ => ⟨rfl, rfl⟩⟩ wf_reset
    ⟨rfl, rfl, rfl, rfl, rfl, rfl⟩

/-- Settles O39: at reset the chainer is quiescent, its hidden registers idle and OUT empty. -/
theorem invariantsHoldAtReset : Obligations.InvariantsHoldAtReset :=
  ⟨wellKept_reset, fun _ => outIsCiphertext_of_quiescent rfl (.inl rfl)⟩

end Sys2Proof.Machine

/-! PROOFS. Memory and agents (spec/20_memory.md): a step runs the decoded word (R71), an idle move lets the other
agents move, a command is accepted only while the chainer is not busy, and each gets one response (R70). For the last
two, what accepting a word and the steps without the host leave in the record. -/

namespace Sys2Proof.Machine

variable {E : Primitive} {s s' : State} {i : Instr} {w : Word}

/-! ## One step, by the host's move -/

theorem acceptWord_ok (h : decode w = .ok i) : acceptWord w s = exec i (s.record (.command w)) := by
  unfold acceptWord; rw [h]

/-- In UNCONF and READY no step without the host is enabled (R237). -/
theorem ownStep_quiescent (h : s.phase.busy = false) : ownStep E s = .next s := by
  unfold ownStep
  rcases Phase.not_busy.1 h with hp | hp <;> rw [hp]

/-- Settles O22: an offered word is accepted, and a legal one performed. -/
theorem stepRunsTheDecodedCommand : Obligations.StepRunsTheDecodedCommand := by
  intro s w rest i hb hh hd
  calc step s = acceptWord w { s with host := rest } := stepWith_accept hb hh
    _ = exec i { s with host := rest, trace := s.trace ++ [.command w] } := acceptWord_ok hd

/-- Settles O28: the idle move is taken, and a quiescent chainer has no step of its own. -/
theorem idleMoveLetsTheOthersMove : Obligations.IdleMoveLetsTheOthersMove :=
  fun _ _ _ hh => ⟨stepWith_idle hh, fun hb => (stepWith_idle hh).trans (ownStep_quiescent hb)⟩

/-! ## What accepting a word adds to the record -/

/-- What the host and the primitive will still do (log 1, log 5): the part of the state that is theirs. -/
def State.otherAgents (s : State) : List HostMove × List Delay := (s.host, s.delays)

/-- No command looks ahead: the moves to come stay as they are. -/
theorem exec_otherAgents (h : exec i s = .next s') : s'.otherAgents = s.otherAgents := by
  cases i <;> simp only [exec] at h
  case nop => rw [execNop_next.1 h]; rfl
  case keyb b => rcases execKeyb_next.1 h with ⟨_, rfl⟩ | ⟨_, rfl⟩ <;> rfl
  case ivb b => rcases execIvb_next.1 h with ⟨_, rfl⟩ | ⟨_, rfl⟩ <;> rfl
  case init => rcases execInit_next.1 h with ⟨_, rfl⟩ | ⟨_, _, rfl⟩ <;> rfl
  case ptb b => rcases execPtb_next.1 h with ⟨_, rfl⟩ | ⟨_, rfl⟩ <;> rfl
  case enc => rcases execEnc_next.1 h with ⟨_, rfl⟩ | ⟨_, rfl⟩ <;> rfl
  case rdb => rcases execRdb_next.1 h with ⟨_, rfl⟩ | ⟨_, _, _, rfl⟩ <;> rfl
  case rds sel => rcases execRds_next.1 h with ⟨_, rfl⟩ | ⟨_, _, rfl⟩ <;> rfl
  case clr mask => rcases execClr_next.1 h with ⟨_, rfl⟩ | ⟨m, _, rfl⟩ <;> simp [State.otherAgents]

theorem acceptWord_otherAgents (h : acceptWord w s = .next s') : s'.otherAgents = s.otherAgents := by
  rcases acceptWord_next h with ⟨_, rfl⟩ | ⟨i, _, hx⟩
  · rfl
  · exact (exec_otherAgents hx :)

theorem acceptWord_host (h : acceptWord w s = .next s') : s'.host = s.host :=
  congrArg Prod.fst (acceptWord_otherAgents h)

/-- A quiescent chainer answers an accepted word in the same step, or an operation is then in progress (R70, R162). -/
theorem acceptWord_trace (hb : s.phase.busy = false) (h : acceptWord w s = .next s') :
    ∃ answer, s'.trace = s.trace ++ .command w :: answer ∧
      ((∃ r, answer = [.response r] ∧ s'.phase.busy = false) ∨ (answer = [] ∧ s'.phase.busy = true)) := by
  have hcases : AnsweredAtOnce (s.record (.command w)) s' ∨ s' = startOperation (s.record (.command w)) := by
    rcases acceptWord_next h with ⟨_, rfl⟩ | ⟨i, _, hx⟩
    · exact .inl (answeredAtOnce_commandFault _ _)
    · exact (exec_answeredAtOnce hx).symm.imp_right fun ⟨_, _, hs⟩ => hs
  rcases hcases with ha | rfl
  · obtain ⟨r, hr⟩ := ha.trace
    exact ⟨[.response r], by simp [hr], .inl ⟨r, rfl, ha.busy hb⟩⟩
  · exact ⟨[], rfl, .inr ⟨rfl, rfl⟩⟩

/-! ## What the steps without the host add to the record -/

/-- `added` is what a step that accepts no word adds to the record: no command, and a response exactly when it ends an
operation. -/
structure AddsNoCommand (s s' : State) (added : List Event) : Prop where
  trace : s'.trace = s.trace ++ added
  command : ∀ w, .command w ∉ added
  response : added.countP Event.isResponse + s'.phase.busy.toNat = s.phase.busy.toNat

/-- None of these events passes between the host and the chainer. -/
def OffHostChannels (events : List Event) : Prop := ∀ e ∈ events, e.isCommand = false ∧ e.isResponse = false

theorem offHostChannels_nil : OffHostChannels [] := by simp [OffHostChannels]

theorem offHostChannels_request (r : Request) : OffHostChannels [.request r] := by
  simp [OffHostChannels, Event.isCommand, Event.isResponse]

theorem offHostChannels_answer (a : Answer) : OffHostChannels [.answer a] := by
  simp [OffHostChannels, Event.isCommand, Event.isResponse]

theorem OffHostChannels.command_notMem {events : List Event} (h : OffHostChannels events) (w : Word) :
    .command w ∉ events := fun hw => by cases (h _ hw).1

theorem OffHostChannels.countP_isResponse {events : List Event} (h : OffHostChannels events) :
    events.countP Event.isResponse = 0 :=
  List.countP_eq_zero.2 fun e he => Bool.eq_false_iff.1 (h e he).2

/-- A step that stays quiescent, or in the operation, sends no response. -/
theorem addsNoCommand_of_busy_eq {added : List Event} (ht : s'.trace = s.trace ++ added) (hc : OffHostChannels added)
    (hb : s'.phase.busy = s.phase.busy) : AddsNoCommand s s' added where
  trace := ht
  command := hc.command_notMem
  response := by rw [hc.countP_isResponse, hb, Nat.zero_add]

/-- The end of an operation sends its one response. -/
theorem addsNoCommand_of_end {before : List Event} {r : Word} (ht : s'.trace = s.trace ++ before ++ [.response r])
    (hc : OffHostChannels before) (hs : s.phase.busy = true) (hs' : s'.phase.busy = false) :
    AddsNoCommand s s' (before ++ [.response r]) where
  trace := by rw [ht, List.append_assoc]
  command w := by simpa using hc.command_notMem w
  response := by rw [List.countP_append, hc.countP_isResponse, hs, hs']; rfl

theorem uPad_addsNoCommand (hp : s.phase = .pad) (h : uPad s = .next s') : ∃ added, AddsNoCommand s s' added := by
  obtain ⟨_, rfl⟩ := uPad_next.1 h
  exact ⟨[], addsNoCommand_of_busy_eq (by simp) offHostChannels_nil (by rw [hp]; rfl)⟩

/-- U_XOR sends a request, or ends the operation on blocks of unequal length (R151, R152). -/
theorem uXor_addsNoCommand (hp : s.phase = .xor) (h : uXor s = .next s') : ∃ added, AddsNoCommand s s' added := by
  obtain ⟨p, blk, _, _, ⟨_, rfl⟩ | ⟨m, _, rfl⟩⟩ := uXor_next.1 h
  · exact ⟨_, addsNoCommand_of_end (by rw [List.append_nil]; rfl) offHostChannels_nil (by rw [hp]; rfl) rfl⟩
  · exact ⟨_, addsNoCommand_of_busy_eq rfl (offHostChannels_request _) (by rw [hp]; rfl)⟩

/-- U_RSP takes the answer, and ends the operation or goes on with it (R163 to R167). -/
theorem uRsp_addsNoCommand (hp : s.phase = .cipher) (h : uRsp E s = .next s') :
    ∃ added, AddsNoCommand s s' added := by
  have hb : s.phase.busy = true := by rw [hp]; rfl
  obtain ⟨r, _, ⟨e, rfl⟩ | ⟨c, _, _, ⟨_, rfl⟩ | ⟨_, rfl⟩⟩⟩ := uRsp_cases h
  · exact ⟨_, addsNoCommand_of_end rfl (offHostChannels_answer _) hb rfl⟩
  · exact ⟨_, addsNoCommand_of_end rfl (offHostChannels_answer _) hb rfl⟩
  · exact ⟨_, addsNoCommand_of_busy_eq rfl (offHostChannels_answer (.ok c)) hb.symm⟩

theorem primitiveStep_addsNoCommand (hp : s.phase = .cipher) (h : primitiveStep E s = .next s') :
    ∃ added, AddsNoCommand s s' added := by
  rcases primitiveStep_next h with ⟨ds, rfl⟩ | ⟨ds, hr⟩
  · exact ⟨[], addsNoCommand_of_busy_eq (by simp) offHostChannels_nil rfl⟩
  · obtain ⟨added, htrace, hcommand, hresponse⟩ := uRsp_addsNoCommand (s := { s with delays := ds }) hp hr
    exact ⟨added, htrace, hcommand, hresponse⟩

/-- No step without the host accepts a command, and one responds exactly when it ends an operation (R166, R167). -/
theorem ownStep_addsNoCommand (h : ownStep E s = .next s') : ∃ added, AddsNoCommand s s' added := by
  rcases ownStep_next h with ⟨_, rfl⟩ | ⟨hp, hu⟩ | ⟨hp, hx⟩ | ⟨hp, hr⟩
  · exact ⟨[], addsNoCommand_of_busy_eq (by simp) offHostChannels_nil rfl⟩
  · exact uPad_addsNoCommand hp hu
  · exact uXor_addsNoCommand hp hx
  · exact primitiveStep_addsNoCommand hp hr

theorem Event.isCommand_iff {e : Event} : e.isCommand = true ↔ ∃ w, e = .command w := by
  cases e <;> simp [Event.isCommand]

theorem AddsNoCommand.countP_isCommand {added : List Event} (h : AddsNoCommand s s' added) :
    added.countP Event.isCommand = 0 := by
  refine List.countP_eq_zero.2 fun e he hc => ?_
  obtain ⟨w, rfl⟩ := Event.isCommand_iff.1 hc
  exact h.command w he

/-! ## Commands and responses over every step -/

/-- Settles O30: of a step's three kinds only the acceptance of the host's next word, in a quiescent state, records a
command, and it records that word first. -/
theorem commandsAreAcceptedOnlyWhenNotBusy : Obligations.CommandsAreAcceptedOnlyWhenNotBusy := by
  intro E s s' h
  rcases stepWith_next h with ⟨rest, _, rfl⟩ | ⟨w, rest, hh, hb, hw⟩ | ⟨moves, ho, _⟩
  · exact ⟨[.reset], rfl, by simp⟩
  · have hhost : s.host = .send w :: s'.host := by rw [hh, acceptWord_host hw]
    obtain ⟨answer, htrace, hanswer⟩ := acceptWord_trace (s := { s with host := rest }) hb hw
    refine ⟨_, htrace, fun v hv => ?_⟩
    obtain rfl : v = w := by
      rcases hanswer with ⟨r, rfl, _⟩ | ⟨rfl, _⟩ <;> simpa using hv
    exact ⟨hb, hhost, rfl⟩
  · obtain ⟨added, hadded⟩ := ownStep_addsNoCommand ho
    exact ⟨added, hadded.trace, fun v hv => absurd hv (hadded.command v)⟩

/-- Settles O31: an accepted command is answered at once or starts an operation, and the step that ends an operation
sends the response still owed. -/
theorem everyCommandGetsOneResponse : Obligations.EveryCommandGetsOneResponse := by
  intro E s s' h hno
  rcases stepWith_next h with ⟨rest, hh, _⟩ | ⟨w, rest, _, hb, hw⟩ | ⟨moves, ho, _⟩
  · exact absurd hh (hno rest)
  · obtain ⟨answer, htrace, hanswer⟩ := acceptWord_trace (s := { s with host := rest }) hb hw
    refine ⟨_, htrace, ?_⟩
    rcases hanswer with ⟨r, rfl, hb'⟩ | ⟨rfl, hb'⟩ <;> rw [hb, hb'] <;> rfl
  · obtain ⟨added, hadded⟩ := ownStep_addsNoCommand ho
    refine ⟨added, hadded.trace, ?_⟩
    rw [hadded.response, hadded.countP_isCommand, Nat.zero_add]

end Sys2Proof.Machine

/-! PROOFS. Encoding (spec/30_encoding.md): the decoder and the encoder (R91 to R94), the response words (R96), and the
assembler's pseudo-instructions (R100 to R103) as runs of the words they stand for. -/

namespace Sys2Proof

variable {w : Word} {i : Instr}

/-! ## Decode and encode agree -/

/-- A row with an IMM condition gives its command where the condition holds. -/
theorem ite_ok_eq_ok {c : Prop} [Decidable c] {e : DecodeError} :
    (if c then .ok i else .error e : Except DecodeError Instr) = .ok i ↔ c := by
  split <;> simp_all

theorem ite_ok_eq_error {c : Prop} [Decidable c] {e : DecodeError} :
    (∃ e', (if c then .ok i else .error e : Except DecodeError Instr) = .error e') ↔ ¬ c := by
  split <;> simp_all

/-- The three fields determine the word, so a word is `i`'s when its fields are (R91). -/
theorem encode_eq_iff : encode i = w ↔ opField w = i.op ∧ rsvField w = 0 ∧ immField w = i.imm := by
  constructor
  · rintro rfl
    exact fields_of_append i.op i.imm
  · rintro ⟨hop, hrsv, himm⟩
    calc encode i = opField w ++ (rsvField w ++ immField w : BitVec 12) := by rw [hop, hrsv, himm]; rfl
      _ = w := fields_append w

theorem decode_encode_fields (i : Instr) : decode (encode i) = decodeOp i.op i.imm := by
  obtain ⟨hop, hrsv, himm⟩ := encode_eq_iff.1 (rfl : encode i = encode i)
  rw [decode, if_pos hrsv, hop, himm]

/-- The row of a command accepts its operand exactly when the command is well formed (R92, R93). -/
theorem decodeOp_op_imm (i : Instr) : decodeOp i.op i.imm = .ok i ↔ i.WellFormed := by
  cases i with
  | nop => exact iff_of_true rfl rfl
  | keyb imm => exact iff_of_true rfl rfl
  | ivb imm => exact iff_of_true rfl rfl
  | init => exact iff_of_true rfl rfl
  | ptb imm => exact iff_of_true rfl rfl
  | enc => exact iff_of_true rfl rfl
  | rdb => exact iff_of_true rfl rfl
  | rds sel => exact ite_ok_eq_ok.trans (by simp [Instr.WellFormed, Instr.wellFormed, Instr.imm])
  | clr mask => exact ite_ok_eq_ok.trans (by simp [Instr.WellFormed, Instr.wellFormed, Instr.imm])

/-- The decoder and the encoder are inverse to each other on the legal words and the well-formed commands (R91, R93). -/
theorem decode_eq_ok_iff : decode w = .ok i ↔ i.WellFormed ∧ encode i = w := by
  constructor
  · intro h
    obtain rfl := encode_of_decode h
    exact ⟨(decodeOp_op_imm i).1 (by rw [← decode_encode_fields, h]), rfl⟩
  · rintro ⟨hwf, rfl⟩
    rw [decode_encode_fields, decodeOp_op_imm]
    exact hwf

/-- Settles O1: the fields of the word are the command's (R91), and its row accepts a well-formed operand. -/
theorem encodedCommandDecodesBack : Obligations.EncodedCommandDecodesBack :=
  fun _ hwf => decode_eq_ok_iff.2 ⟨hwf, rfl⟩

/-- Settles O2: the other direction of `decode_eq_ok_iff`. -/
theorem decodedWordEncodesBack : Obligations.DecodedWordEncodesBack :=
  fun _ _ h => decode_eq_ok_iff.1 h

/-- Settles O5: each of the nine words is the encoder's word of its command. -/
theorem spelledOutWordsDecode : Obligations.SpelledOutWordsDecode := by
  refine ⟨?_, ?_, ?_, ?_, ?_, ?_, ?_, ?_, ?_⟩ <;> exact decode_eq_ok_iff.2 ⟨by decide, by decide⟩

/-! ## The illegal words -/

theorem opField_toNat (w : Word) : (opField w).toNat = w.toNat / 4096 := by
  have := w.isLt
  simp only [opField, BitVec.extractLsb'_toNat, Nat.shiftRight_eq_div_pow]
  omega

theorem rsvField_toNat (w : Word) : (rsvField w).toNat = w.toNat / 256 % 16 := by
  simp [rsvField, BitVec.extractLsb'_toNat, Nat.shiftRight_eq_div_pow]

theorem immField_toNat (w : Word) : (immField w).toNat = w.toNat % 256 := by
  simp [immField, BitVec.extractLsb'_toNat]

/-- CLR's reserved bits 7 and 6 are zero exactly below `0x40` (R94 item 5). -/
theorem reservedBits_eq_zero {mask : Byte} : mask.extractLsb' 6 2 = 0 ↔ mask.toNat < 0x40 := by
  have := mask.isLt
  rw [← BitVec.toNat_inj, BitVec.extractLsb'_toNat, Nat.shiftRight_eq_div_pow]
  simp only [BitVec.ofNat_eq_ofNat, BitVec.toNat_ofNat]
  omega

theorem byte_eq_zero_iff {imm : Byte} : imm = 0 ↔ imm.toNat = 0 := by
  rw [← BitVec.toNat_inj]; rfl

/-- The checks 2 to 5 of R224, by OP. -/
theorem decodeOp_error {op : BitVec 4} {imm : Byte} : (∃ e, decodeOp op imm = .error e) ↔
    9 ≤ op.toNat ∨
    ((op.toNat = 0 ∨ op.toNat = 3 ∨ op.toNat = 5 ∨ op.toNat = 6) ∧ imm.toNat ≠ 0) ∨
    (op.toNat = 7 ∧ 3 ≤ imm.toNat) ∨ (op.toNat = 8 ∧ 0x40 ≤ imm.toNat) := by
  unfold decodeOp
  split
  next hop => rw [decodeNoOperand, ite_ok_eq_error, byte_eq_zero_iff]; omega
  next hop => simp [hop]
  next hop => simp [hop]
  next hop => rw [decodeNoOperand, ite_ok_eq_error, byte_eq_zero_iff]; omega
  next hop => simp [hop]
  next hop => rw [decodeNoOperand, ite_ok_eq_error, byte_eq_zero_iff]; omega
  next hop => rw [decodeNoOperand, ite_ok_eq_error, byte_eq_zero_iff]; omega
  next hop => rw [ite_ok_eq_error]; omega
  next hop => rw [ite_ok_eq_error, reservedBits_eq_zero]; omega
  next =>
    simp only [imp_false] at *
    exact iff_of_true ⟨_, rfl⟩ (.inl (by omega))

/-- Settles O3: the checks of R224 on the three fields, which are digits of the word's value. -/
theorem illegalWordsAreTheListed : Obligations.IllegalWordsAreTheListed := by
  intro w
  have hop := opField_toNat w
  have hrsv := rsvField_toNat w
  have himm := immField_toNat w
  have hlt := w.isLt
  unfold decode
  split
  next hz =>
    have hz' : (rsvField w).toNat = 0 := congrArg BitVec.toNat hz
    rw [decodeOp_error]
    omega
  next hz =>
    have hz' : (rsvField w).toNat ≠ 0 := fun h => hz (BitVec.eq_of_toNat_eq h)
    exact iff_of_true ⟨_, rfl⟩ (.inl (by omega))

/-! ## The opcode table -/

/-- The mnemonic that the opcode table has for an operation code, none for a reserved one (R93). -/
def tableMnemonic (op : BitVec 4) : Option String := (opcodeTable.map TableRow.mnemonic)[op.toNat]?

/-- The table's mnemonic is the one of the commands with that operation code. -/
theorem tableMnemonic_op (i : Instr) : tableMnemonic i.op = some i.mnemonic := by
  cases i <;> rfl

/-- A word is a command of that mnemonic when RSV is zero, OP is the mnemonic's and the row accepts IMM. -/
theorem decodesTo_mnemonic_iff {name : String} :
    (∃ i, decode w = .ok i ∧ i.mnemonic = name) ↔
      rsvField w = 0 ∧ tableMnemonic (opField w) = some name ∧ (decodeOp (opField w) (immField w)).isOk = true := by
  constructor
  · rintro ⟨i, hi, rfl⟩
    obtain ⟨_, hw⟩ := decode_eq_ok_iff.1 hi
    obtain ⟨hop, hrsv, himm⟩ := encode_eq_iff.1 hw
    rw [decode, if_pos hrsv] at hi
    exact ⟨hrsv, by rw [hop, tableMnemonic_op], by rw [hi]; rfl⟩
  · rintro ⟨hrsv, hname, hok⟩
    cases hd : decodeOp (opField w) (immField w) with
    | error e => rw [hd] at hok; cases hok
    | ok i =>
      refine ⟨i, by rw [decode, if_pos hrsv, hd], ?_⟩
      rw [(fields_of_decodeOp hd).1, tableMnemonic_op] at hname
      exact Option.some.inj hname

theorem fields_eq_iff {m n : Nat} {a c : BitVec m} {b d : BitVec n} :
    a ++ b = c ++ d ↔ a = c ∧ b = d := by
  constructor
  · intro h
    constructor
    · simpa only [BitVec.extractLsb'_append_eq_left] using congrArg (BitVec.extractLsb' n m) h
    · simpa only [BitVec.extractLsb'_append_eq_right] using congrArg (BitVec.extractLsb' 0 n) h
  · rintro ⟨rfl, rfl⟩; rfl

/-- Matching under a mask that covers OP and RSV, field by field. -/
theorem and_mask_eq_iff {op : BitVec 4} {immMask : Byte} :
    w &&& (0xF#4 ++ (0xF#4 ++ immMask : BitVec 12)) = (op ++ (0#4 ++ 0#8 : BitVec 12) : BitVec 16) ↔
      opField w = op ∧ rsvField w = 0 ∧ immField w &&& immMask = 0 := by
  have ones : ∀ x : BitVec 4, x &&& 0xF#4 = x := by decide
  conv_lhs => rw [← fields_append w]
  rw [BitVec.and_append, BitVec.and_append, fields_eq_iff, fields_eq_iff, ones, ones]
  rfl

/-- A row of the table is right when its mnemonic belongs to one operation code, match and mask are that code with a
mask on IMM, and the decoder accepts the operands that the row accepts. -/
theorem decodesToRow_iff {r : TableRow} (op : BitVec 4) (immMask : Byte)
    (hname : ∀ o, tableMnemonic o = some r.mnemonic ↔ o = op)
    (hmatched : r.matched = op ++ (0#4 ++ 0#8 : BitVec 12)) (hmask : r.mask = 0xF#4 ++ (0xF#4 ++ immMask : BitVec 12))
    (himm : ∀ imm : Byte, (decodeOp op imm).isOk = true ↔
      imm &&& immMask = 0 ∧ (r.mnemonic = "RDS" → imm.toNat ≤ 2)) :
    (∃ i, decode w = .ok i ∧ i.mnemonic = r.mnemonic) ↔ rowAccepts r w = true := by
  have haccepts : rowAccepts r w = true ↔
      (opField w = op ∧ rsvField w = 0 ∧ immField w &&& immMask = 0) ∧
      (r.mnemonic = "RDS" → (immField w).toNat ≤ 2) := by
    rw [← and_mask_eq_iff, ← hmatched, ← hmask]
    by_cases h : r.mnemonic = "RDS" <;> simp [rowAccepts, h]
  rw [decodesTo_mnemonic_iff, hname, haccepts]
  constructor
  · rintro ⟨hrsv, rfl, hok⟩
    obtain ⟨hz, hsel⟩ := (himm _).1 hok
    exact ⟨⟨rfl, hrsv, hz⟩, hsel⟩
  · rintro ⟨⟨rfl, hrsv, hz⟩, hsel⟩
    exact ⟨hrsv, rfl, (himm _).2 ⟨hz, hsel⟩⟩

/-- Settles O4: the nine rows of R93, each with its operation code and its mask on IMM. -/
theorem decoderFollowsMatchAndMask : Obligations.DecoderFollowsMatchAndMask := by
  intro r hr w
  simp only [opcodeTable, List.mem_cons, List.not_mem_nil, or_false] at hr
  rcases hr with rfl | rfl | rfl | rfl | rfl | rfl | rfl | rfl | rfl
  · exact decodesToRow_iff 0x0 0xFF (by decide) rfl rfl (by decide)
  · exact decodesToRow_iff 0x1 0x00 (by decide) rfl rfl (by decide)
  · exact decodesToRow_iff 0x2 0x00 (by decide) rfl rfl (by decide)
  · exact decodesToRow_iff 0x3 0xFF (by decide) rfl rfl (by decide)
  · exact decodesToRow_iff 0x4 0x00 (by decide) rfl rfl (by decide)
  · exact decodesToRow_iff 0x5 0xFF (by decide) rfl rfl (by decide)
  · exact decodesToRow_iff 0x6 0xFF (by decide) rfl rfl (by decide)
  · exact decodesToRow_iff 0x7 0x00 (by decide) rfl rfl (by decide)
  · exact decodesToRow_iff 0x8 0xC0 (by decide) rfl rfl (by decide)

end Sys2Proof

namespace Sys2Proof.Machine

variable {E : Primitive} {s s' t : State} {i : Instr} {w : Word} {moves moves' later rest : List HostMove}

/-! ## The response words -/

/-- The words of R96's list: data, EMPTY, and the faults with causes 1 to 5. -/
def ListedResponse (r : Word) : Prop :=
  (∃ d : Byte, r = d.setWidth 16) ∨ r = 0x4000 ∨ r = 0x8100 ∨ r = 0x8200 ∨ r = 0x8300 ∨ r = 0x8400 ∨ r = 0x8500

theorem listedResponse_data (d : Byte) : ListedResponse (responseWord false false .none d) :=
  .inl ⟨d, responseWord_data d⟩

theorem listedResponse_empty : ListedResponse (responseWord false true .none 0#8) :=
  .inr (.inl responseWord_empty)

theorem listedResponse_fault {c : Cause} (hc : c ≠ .none) : ListedResponse (responseWord true false c 0#8) := by
  cases c with
  | none => exact absurd rfl hc
  | invalidKey => simp [ListedResponse]
  | invalidBlockSize => simp [ListedResponse]
  | illegalCommand => simp [ListedResponse]
  | notConfigured => simp [ListedResponse]
  | capacity => simp [ListedResponse]

/-- From `s` to `s'` the record has grown, with listed responses only. -/
def SendsListed (s s' : State) : Prop :=
  ∃ added, s'.trace = s.trace ++ added ∧ ∀ r, .response r ∈ added → ListedResponse r

theorem SendsListed.trans (h : SendsListed s t) (h' : SendsListed t s') : SendsListed s s' := by
  obtain ⟨as, htrace, hlisted⟩ := h
  obtain ⟨bs, htrace', hlisted'⟩ := h'
  refine ⟨as ++ bs, by rw [htrace', htrace, List.append_assoc], fun r hr => ?_⟩
  exact (List.mem_append.1 hr).elim (hlisted r) (hlisted' r)

theorem sendsListed_of_trace_eq (h : s'.trace = s.trace) : SendsListed s s' :=
  ⟨[], by simp [h], by simp⟩

theorem sendsListed_of_event {e : Event} (h : s'.trace = s.trace ++ [e]) (he : e.isResponse = false) :
    SendsListed s s' :=
  ⟨[e], h, fun r hr => by rw [← List.mem_singleton.1 hr] at he; cases he⟩

theorem sendsListed_of_response {r : Word} (h : s'.trace = s.trace ++ [.response r]) (hr : ListedResponse r) :
    SendsListed s s' := by
  refine ⟨[.response r], h, fun r' hr' => ?_⟩
  obtain rfl : r' = r := by simpa using hr'
  exact hr

theorem sendsListed_commandFault {c : Cause} (hc : c ≠ .none) (s : State) : SendsListed s (commandFault c s) :=
  sendsListed_of_response rfl (listedResponse_fault hc)

theorem sendsListed_done (h : t.trace = s.trace) : SendsListed s (respondDone t) :=
  (sendsListed_of_trace_eq h).trans (sendsListed_of_response rfl (listedResponse_data 0))

theorem sendsListed_endFail (e : PrimError) (s : State) : SendsListed s (endFail e s) :=
  sendsListed_of_response rfl (listedResponse_fault (primCause_ne_none e))

/-- A command answers a byte, EMPTY, or a fault with its cause; the ENC of an operation answers nothing yet. -/
theorem exec_sendsListed (h : exec i s = .next s') : SendsListed s s' := by
  cases i <;> simp only [exec] at h
  case nop => rw [execNop_next.1 h]; exact sendsListed_done rfl
  case keyb b =>
    rcases execKeyb_next.1 h with ⟨_, rfl⟩ | ⟨_, rfl⟩
    · exact sendsListed_commandFault (by decide) s
    · exact sendsListed_done rfl
  case ivb b =>
    rcases execIvb_next.1 h with ⟨_, rfl⟩ | ⟨_, rfl⟩
    · exact sendsListed_commandFault (by decide) s
    · exact sendsListed_done rfl
  case init =>
    rcases execInit_next.1 h with ⟨_, rfl⟩ | ⟨_, _, rfl⟩
    · exact sendsListed_commandFault (by decide) s
    · exact sendsListed_done rfl
  case ptb b =>
    rcases execPtb_next.1 h with ⟨_, rfl⟩ | ⟨_, rfl⟩
    · exact sendsListed_commandFault (by decide) s
    · exact sendsListed_done rfl
  case enc =>
    rcases execEnc_next.1 h with ⟨_, rfl⟩ | ⟨_, rfl⟩
    · exact sendsListed_commandFault (by decide) s
    · exact sendsListed_of_trace_eq rfl
  case rdb =>
    rcases execRdb_next.1 h with ⟨_, rfl⟩ | ⟨d, rest, _, rfl⟩
    · exact sendsListed_of_response rfl listedResponse_empty
    · exact sendsListed_of_response rfl (listedResponse_data d)
  case rds sel =>
    rcases execRds_next.1 h with ⟨_, rfl⟩ | ⟨r, _, rfl⟩
    · exact sendsListed_commandFault (by decide) s
    · exact sendsListed_of_response rfl (listedResponse_data (readRegister s r))
  case clr mask =>
    rcases execClr_next.1 h with ⟨_, rfl⟩ | ⟨m, _, rfl⟩
    · exact sendsListed_commandFault (by decide) s
    · exact sendsListed_done (by simp)

theorem acceptWord_sendsListed (h : acceptWord w s = .next s') : SendsListed s s' := by
  have hword : SendsListed s (s.record (.command w)) := sendsListed_of_event rfl rfl
  rcases acceptWord_next h with ⟨_, rfl⟩ | ⟨i, _, hx⟩
  · exact hword.trans (sendsListed_commandFault (by decide) _)
  · exact hword.trans (exec_sendsListed hx)

theorem uXor_sendsListed (h : uXor s = .next s') : SendsListed s s' := by
  obtain ⟨p, blk, _, _, ⟨_, rfl⟩ | ⟨m, _, rfl⟩⟩ := uXor_next.1 h
  · exact sendsListed_endFail _ s
  · exact sendsListed_of_event rfl rfl

/-- U_RSP records the answer, then sends what ends the operation, if it ends (R163 to R167). -/
theorem uRsp_sendsListed (h : uRsp E s = .next s') : SendsListed s s' := by
  have hanswer (a : Answer) : SendsListed s (s.record (.answer a)) := sendsListed_of_event rfl rfl
  obtain ⟨r, _, ⟨e, rfl⟩ | ⟨c, _, _, ⟨_, rfl⟩ | ⟨_, rfl⟩⟩⟩ := uRsp_cases h
  · exact (hanswer _).trans (sendsListed_endFail e _)
  · exact (hanswer (.ok c)).trans (sendsListed_done rfl)
  · exact (hanswer (.ok c)).trans (sendsListed_of_trace_eq rfl)

theorem primitiveStep_sendsListed (h : primitiveStep E s = .next s') : SendsListed s s' := by
  rcases primitiveStep_next h with ⟨ds, rfl⟩ | ⟨ds, hr⟩
  · exact sendsListed_of_trace_eq rfl
  · exact (uRsp_sendsListed hr :)

theorem ownStep_sendsListed (h : ownStep E s = .next s') : SendsListed s s' := by
  rcases ownStep_next h with ⟨_, rfl⟩ | ⟨_, hu⟩ | ⟨_, hx⟩ | ⟨_, hr⟩
  · exact sendsListed_of_trace_eq rfl
  · rw [(uPad_next.1 hu).2]; exact sendsListed_of_trace_eq rfl
  · exact uXor_sendsListed hx
  · exact primitiveStep_sendsListed hr

/-- Settles O32: a reset sends nothing, and every response of a command or a micro-step is listed. -/
theorem onlyTheListedResponses : Obligations.OnlyTheListedResponses := by
  intro E s s' h
  rcases stepWith_next h with ⟨rest, _, rfl⟩ | ⟨w, rest, _, _, hw⟩ | ⟨moves, ho, _⟩
  · exact (sendsListed_of_event rfl rfl : SendsListed s (applyReset { s with host := rest }))
  · exact (acceptWord_sendsListed hw :)
  · exact (ownStep_sendsListed ho :)

/-! ## Runs -/

theorem runWith_succ {n : Nat} (h : stepWith E s = .next t) : runWith E (n + 1) s = runWith E n t := by
  rw [runWith, h]

theorem runWith_trans {m n : Nat} (h : runWith E m s = .next t) (h' : runWith E n t = .next s') :
    runWith E (m + n) s = .next s' := (runWith_add m n t h).trans h'

/-- `s` after an exchange with the host: `moves` are left of the host's, and `events` have passed. -/
def State.exchanged (s : State) (moves : List HostMove) (events : List Event) : State :=
  { s with host := moves, trace := s.trace ++ events }

@[simp] theorem exchanged_phase (moves : List HostMove) (events : List Event) :
    (s.exchanged moves events).phase = s.phase := rfl
@[simp] theorem exchanged_host (moves : List HostMove) (events : List Event) :
    (s.exchanged moves events).host = moves := rfl
@[simp] theorem exchanged_ivs (moves : List HostMove) (events : List Event) :
    (s.exchanged moves events).ivs = s.ivs := rfl

@[simp] theorem exchanged_exchanged (moves moves' : List HostMove) (events events' : List Event) :
    (s.exchanged moves events).exchanged moves' events' = s.exchanged moves' (events ++ events') := by
  simp [State.exchanged]

@[simp] theorem exchanged_self (s : State) : s.exchanged s.host [] = s := by
  simp [State.exchanged]

@[simp] theorem respondDone_exchanged (moves : List HostMove) (events : List Event) :
    respondDone (s.exchanged moves events) = s.exchanged moves (events ++ [.response 0x0000]) := by
  simp [State.exchanged, respondDone, respond, State.record]

/-- The word of a well-formed command, offered to a quiescent chainer, is performed (R70, R71). -/
theorem stepWith_instr (hb : s.phase.busy = false) (hh : s.host = .send (encode i) :: rest) (hwf : i.WellFormed) :
    stepWith E s = exec i (s.exchanged rest [.command (encode i)]) := by
  rw [stepWith_accept hb hh, acceptWord_ok (encodedCommandDecodesBack i hwf)]
  rfl

@[simp] theorem sends_nil : sends [] = [] := rfl
@[simp] theorem sends_cons (i : Instr) (is : List Instr) : sends (i :: is) = .send (encode i) :: sends is := rfl
@[simp] theorem sends_append (is js : List Instr) : sends (is ++ js) = sends is ++ sends js := List.map_append

@[simp] theorem acceptedDone_nil : acceptedDone [] = [] := rfl
@[simp] theorem acceptedDone_cons (i : Instr) (is : List Instr) :
    acceptedDone (i :: is) = .command (encode i) :: .response 0x0000 :: acceptedDone is := rfl
@[simp] theorem acceptedDone_append (is js : List Instr) :
    acceptedDone (is ++ js) = acceptedDone is ++ acceptedDone js := List.flatMap_append

/-! ## Staging a sequence of bytes -/

/-- The three staging buffers (R25 to R27), to speak of KEYB, IVB and PTB at once. -/
inductive StagingBuffer where
  | keys
  | ivs
  | msg

namespace StagingBuffer

/-- The command that appends a byte to the buffer. -/
def instr : StagingBuffer → Byte → Instr
  | keys => .keyb
  | ivs => .ivb
  | msg => .ptb

def contents : StagingBuffer → State → Bytes
  | keys, s => s.keys
  | ivs, s => s.ivs
  | msg, s => s.msg

def capacity : StagingBuffer → State → Option Nat
  | keys, s => s.params.keyMax
  | ivs, _ => some ivsMax
  | msg, s => s.params.msgMax

/-- The state with these bytes in the buffer. -/
def fill : StagingBuffer → Bytes → State → State
  | keys, bs, s => { s with keys := bs }
  | ivs, bs, s => { s with ivs := bs }
  | msg, bs, s => { s with msg := bs }

end StagingBuffer

section Staging

variable {buf : StagingBuffer} {b : Byte} {bs bs' : Bytes} {events : List Event}

@[simp] theorem fill_phase : (buf.fill bs s).phase = s.phase := by cases buf <;> rfl
@[simp] theorem fill_host : (buf.fill bs s).host = s.host := by cases buf <;> rfl
@[simp] theorem fill_contents_self : buf.fill (buf.contents s) s = s := by cases buf <;> rfl
@[simp] theorem contents_fill : buf.contents (buf.fill bs s) = bs := by cases buf <;> rfl
@[simp] theorem contents_exchanged : buf.contents (s.exchanged moves events) = buf.contents s := by cases buf <;> rfl
@[simp] theorem capacity_fill : buf.capacity (buf.fill bs s) = buf.capacity s := by cases buf <;> rfl
@[simp] theorem capacity_exchanged : buf.capacity (s.exchanged moves events) = buf.capacity s := by cases buf <;> rfl
@[simp] theorem fill_fill : buf.fill bs' (buf.fill bs s) = buf.fill bs' s := by cases buf <;> rfl
@[simp] theorem fill_exchanged :
    buf.fill bs (s.exchanged moves events) = (buf.fill bs s).exchanged moves events := by cases buf <;> rfl

/-- KEYB, IVB and PTB append their byte while there is room (R120, R121, R161). -/
theorem exec_stagingInstr (h : full (buf.capacity s) (buf.contents s) = false) :
    exec (buf.instr b) s = .next (respondDone (buf.fill (buf.contents s ++ [b]) s)) := by
  cases buf with
  | keys => exact execKeyb_next.2 (.inr ⟨h, rfl⟩)
  | ivs => exact execIvb_next.2 (.inr ⟨h, rfl⟩)
  | msg => exact execPtb_next.2 (.inr ⟨h, rfl⟩)

theorem instr_wellFormed : (buf.instr b).WellFormed := by cases buf <;> rfl

/-- One byte staged: its word is taken from the host's moves and answered `0x0000`. -/
theorem stepWith_stage (hb : s.phase.busy = false) (hh : s.host = .send (encode (buf.instr b)) :: rest)
    (hroom : full (buf.capacity s) (buf.contents s) = false) :
    stepWith E s =
      .next ((buf.fill (buf.contents s ++ [b]) s).exchanged rest (acceptedDone [buf.instr b])) := by
  rw [stepWith_instr hb hh instr_wellFormed, exec_stagingInstr (by simpa using hroom)]
  simp

/-- The words that stage a sequence of bytes append it, one step each, while there is room for all of it. -/
theorem runWith_stage (hb : s.phase.busy = false) (hh : s.host = sends (bs.map buf.instr) ++ rest)
    (hroom : ∀ m, buf.capacity s = some m → (buf.contents s).length + bs.length ≤ m) :
    runWith E bs.length s =
      .next ((buf.fill (buf.contents s ++ bs) s).exchanged rest (acceptedDone (bs.map buf.instr))) := by
  induction bs generalizing s with
  | nil =>
    obtain rfl : s.host = rest := hh
    simp [runWith]
  | cons b bs ih =>
    have hnow : full (buf.capacity s) (buf.contents s) = false := by
      rw [full_eq_false]
      intro m hm
      have := hroom m hm
      simp only [List.length_cons] at this
      omega
    rw [List.map_cons, sends_cons, List.cons_append] at hh
    rw [List.length_cons, runWith_succ (stepWith_stage hb hh hnow), ih]
    · simp
    · simpa using hb
    · simp
    · intro m hm
      have := hroom m (by simpa using hm)
      simp only [contents_exchanged, contents_fill, List.length_append, List.length_cons, List.length_nil] at this ⊢
      omega

end Staging

/-! ## NEW -/

/-- INIT with 1 to 255 staged IV bytes (R122). -/
theorem stepWith_init (hb : s.phase.busy = false) (hh : s.host = .send (encode .init) :: rest) (hne : s.ivs ≠ [])
    (hle : s.ivs.length ≤ ivsMax) :
    stepWith E s = .next ((construct s).exchanged rest (acceptedDone [.init])) := by
  have hexec : exec .init (s.exchanged rest [.command (encode .init)]) =
      .next (respondDone (construct (s.exchanged rest [.command (encode .init)]))) :=
    execInit_next.2 (.inr ⟨hne, hle, rfl⟩)
  rw [stepWith_instr hb hh rfl, hexec]
  exact congrArg _ (respondDone_exchanged (s := construct s) rest [.command (encode .init)])

/-- Settles O57: KEYB stages the key, IVB the IV, and INIT constructs the encryptor from them (R101). -/
theorem newConstructs : Obligations.NewConstructs := by
  intro E s key iv b rest hb hkeys hivs hroom hpos hsize hh
  have hle : iv.length ≤ ivsMax := by have := b.isLt; simp only [ivsMax]; omega
  have hne : iv ≠ [] := List.ne_nil_of_length_pos hpos
  have hbsz : BitVec.ofNat 8 iv.length = b := by rw [hsize, BitVec.ofNat_toNat, BitVec.setWidth_eq]
  simp only [asmNew, sends_append, List.append_assoc] at hh
  have hkey := runWith_stage (E := E) (buf := .keys) hb hh
    (by simpa [StagingBuffer.contents, StagingBuffer.capacity, hkeys] using hroom)
  have hstaged := runWith_trans hkey (runWith_stage (buf := .ivs) (bs := iv) (by simpa using hb) rfl
    (by simpa [StagingBuffer.contents, StagingBuffer.capacity, StagingBuffer.fill, hivs] using hle))
  rw [runWith_add _ 1 _ hstaged, runWith_succ (stepWith_init (by simpa using hb) rfl
    (by simpa [StagingBuffer.contents, StagingBuffer.fill, hivs] using hne)
    (by simpa [StagingBuffer.contents, StagingBuffer.fill, hivs] using hle))]
  simp [runWith, asmNew, StagingBuffer.fill, StagingBuffer.contents, StagingBuffer.instr, State.exchanged, construct,
    hkeys, hivs, hbsz]

/-! ## READ -/

theorem encode_rdb : encode .rdb = 0x6000 := rfl

/-- RDB of a byte: the first of OUT is its response (R170). -/
theorem stepWith_rdb_cons {d : Byte} {out : Bytes} (hb : s.phase.busy = false)
    (hh : s.host = .send (encode .rdb) :: rest) (hout : s.out = d :: out) :
    stepWith E s = .next ({ s with out := out }.exchanged rest [.command 0x6000, .response (d.setWidth 16)]) := by
  have hexec : exec .rdb (s.exchanged rest [.command (encode .rdb)]) = _ := execRdb_next.2 (.inr ⟨d, out, hout, rfl⟩)
  rw [stepWith_instr hb hh rfl, hexec, respond, responseWord_data]
  simp [State.exchanged, State.record, encode_rdb]

/-- RDB of an empty OUT: EMPTY, and nothing changes (R170). -/
theorem stepWith_rdb_nil (hb : s.phase.busy = false) (hh : s.host = .send (encode .rdb) :: rest) (hout : s.out = []) :
    stepWith E s = .next (s.exchanged rest [.command 0x6000, .response 0x4000]) := by
  have hexec : exec .rdb (s.exchanged rest [.command (encode .rdb)]) = _ := execRdb_next.2 (.inl ⟨hout, rfl⟩)
  rw [stepWith_instr hb hh rfl, hexec, respond, responseWord_empty]
  simp [State.exchanged, State.record, encode_rdb]

/-- What passes when `n` words RDB read from `out`: its first `n` bytes, then EMPTY (R103). -/
def readEvents (n : Nat) (out : Bytes) : List Event :=
  (out.take n).flatMap (fun d => [.command 0x6000, .response (d.setWidth 16)]) ++
    (List.replicate (n - out.length) [.command 0x6000, .response 0x4000]).flatten

theorem readEvents_succ_cons (n : Nat) (d : Byte) (out : Bytes) :
    readEvents (n + 1) (d :: out) = [.command 0x6000, .response (d.setWidth 16)] ++ readEvents n out := by
  simp [readEvents]

theorem readEvents_succ_nil (n : Nat) :
    readEvents (n + 1) [] = [.command 0x6000, .response 0x4000] ++ readEvents n [] := by
  simp [readEvents, List.replicate_succ]

theorem runWith_read {n : Nat} (hb : s.phase.busy = false) (hh : s.host = sends (asmRead n) ++ rest) :
    runWith E n s = .next ({ s with out := s.out.drop n }.exchanged rest (readEvents n s.out)) := by
  induction n generalizing s with
  | zero =>
    obtain rfl : s.host = rest := hh
    simp [runWith, readEvents, State.exchanged]
  | succ n ih =>
    replace hh : s.host = .send (encode .rdb) :: (sends (asmRead n) ++ rest) := hh
    cases hout : s.out with
    | nil =>
      rw [runWith_succ (stepWith_rdb_nil hb hh hout), ih]
      · simp [State.exchanged, hout, readEvents_succ_nil]
      · exact hb
      · rfl
    | cons d out =>
      rw [runWith_succ (stepWith_rdb_cons hb hh hout), ih]
      · simp [State.exchanged, readEvents_succ_cons]
      · exact hb
      · rfl

/-- Settles O59: by induction on the number of words, each RDB finding a byte or OUT empty. -/
theorem readReturnsTheBytesInOrder : Obligations.ReadReturnsTheBytesInOrder := by
  intro E s n rest hb hh
  rw [runWith_read hb hh, State.exchanged, readEvents, List.append_assoc]

/-! ## The host during an operation -/

theorem AfterIdles.refl (moves : List HostMove) : AfterIdles moves moves := ⟨0, rfl⟩

theorem AfterIdles.trans (h : AfterIdles moves moves') (h' : AfterIdles moves' later) : AfterIdles moves later := by
  obtain ⟨j, rfl⟩ := h
  obtain ⟨k, rfl⟩ := h'
  exact ⟨j + k, by rw [List.replicate_add, List.append_assoc]⟩

theorem NoResetAhead.afterIdles (h : NoResetAhead moves) (ha : AfterIdles moves later) : NoResetAhead later := by
  obtain ⟨k, rfl⟩ := ha
  induction k with
  | zero => exact h
  | succ k ih => exact ih h

/-- A busy chainer uses up an idle move or holds the host's word, and moves itself (R70). -/
theorem stepWith_busy (hb : s.phase.busy = true) (hn : NoResetAhead s.host) :
    ∃ later, AfterIdles s.host later ∧ stepWith E s = ownStep E { s with host := later } := by
  cases hh : s.host with
  | nil => exact ⟨[], .refl _, by rw [stepWith_waiting hb (.inl hh), ← hh]⟩
  | cons m rest =>
    cases m with
    | send w => exact ⟨.send w :: rest, .refl _, by rw [stepWith_waiting hb (.inr ⟨w, rest, hh⟩), ← hh]⟩
    | idle => exact ⟨rest, ⟨1, rfl⟩, stepWith_idle hh⟩
    | reset => rw [hh] at hn; exact hn.elim

theorem ownStep_pad (hp : s.phase = .pad) : ownStep E s = uPad s := by
  unfold ownStep; rw [hp]

theorem ownStep_xor (hp : s.phase = .xor) : ownStep E s = uXor s := by
  unfold ownStep; rw [hp]

theorem ownStep_cipher (hp : s.phase = .cipher) : ownStep E s = primitiveStep E s := by
  unfold ownStep; rw [hp]

/-! ## Where a run comes to -/

/-- Some number of steps leads from `s` to `t`. -/
def Reaches (E : Primitive) (s t : State) : Prop := ∃ n, runWith E n s = .next t

theorem Reaches.trans (h : Reaches E s t) (h' : Reaches E t s') : Reaches E s s' := by
  obtain ⟨m, hm⟩ := h
  obtain ⟨n, hn⟩ := h'
  exact ⟨m + n, runWith_trans hm hn⟩

theorem Reaches.of_step (h : stepWith E s = .next t) : Reaches E s t := ⟨1, runWith_succ h⟩

theorem runWith_wellKept {n : Nat} (hk : WellKept s) (h : runWith E n s = .next t) : WellKept t := by
  induction n generalizing s with
  | zero => cases h; exact hk
  | succ n ih =>
    cases hs : stepWith E s with
    | next u => rw [runWith_succ hs] at h; exact ih (stepWith_wellKept hk hs) h
    | fault f => rw [runWith, hs] at h; cases h
    | refused r => rw [runWith, hs] at h; cases h

theorem Reaches.wellKept (h : Reaches E s t) (hk : WellKept s) : WellKept t := by
  obtain ⟨n, hn⟩ := h
  exact runWith_wellKept hk hn

/-! ## A request and its answer -/

theorem primitiveStep_of_due (h : AnswerDue s) : primitiveStep E s = uRsp E { s with delays := s.delays.drop 1 } := by
  cases s
  rcases h with h | ⟨rest, h⟩ <;> (simp only at h; subst h; rfl)

/-- With a request outstanding and an answer due, the next step takes the answer. -/
theorem answer_reached_of_due {r : Request} (hp : s.phase = .cipher) (hr : s.req = some r)
    (hn : NoResetAhead s.host) (hd : AnswerDue s) :
    ∃ later, AfterIdles s.host later ∧ Reaches E s (takeAnswer (E r.key r.block)
      (State.record { s with host := later, delays := s.delays.drop 1 } (.answer (E r.key r.block)))) := by
  obtain ⟨later, hl, hs⟩ := stepWith_busy (E := E) (by rw [hp]; rfl) hn
  refine ⟨later, hl, .of_step ?_⟩
  calc stepWith E s = primitiveStep E { s with host := later } := hs.trans (ownStep_cipher hp)
    _ = uRsp E { s with host := later, delays := s.delays.drop 1 } := primitiveStep_of_due hd
    _ = _ := uRsp_next.2 ⟨r, hr, rfl⟩

/-- A primitive whose delay is finite answers at last (R254). -/
theorem answer_reached {r : Request} (hp : s.phase = .cipher) (hr : s.req = some r)
    (hn : NoResetAhead s.host) (hd : Delay.never ∉ s.delays) :
    ∃ later, AfterIdles s.host later ∧ Reaches E s (takeAnswer (E r.key r.block)
      (State.record { s with host := later, delays := s.delays.drop 1 } (.answer (E r.key r.block)))) := by
  cases hds : s.delays with
  | nil => simpa [hds] using answer_reached_of_due (E := E) hp hr hn (.inl hds)
  | cons d ds =>
    cases d with
    | never => simp [hds] at hd
    | after k =>
      clear hd
      induction k generalizing s with
      | zero => simpa [hds] using answer_reached_of_due (E := E) hp hr hn (.inr ⟨ds, hds⟩)
      | succ k ih =>
        obtain ⟨moves, hm, hs⟩ := stepWith_busy (E := E) (by rw [hp]; rfl) hn
        have hwait : stepWith E s = .next { s with host := moves, delays := .after k :: ds } := by
          rw [hs, ownStep_cipher (s := { s with host := moves }) hp]
          simp [primitiveStep, hds]
        obtain ⟨later, hl, hreach⟩ := ih (s := { s with host := moves, delays := .after k :: ds }) hp hr
          (hn.afterIdles hm) rfl
        exact ⟨later, hm.trans hl, (Reaches.of_step hwait).trans hreach⟩

/-! ## One block -/

/-- `s` after a part of an operation: what is left of the host's moves and of the delays, and what has passed. -/
def State.progressed (s : State) (moves : List HostMove) (ds : List Delay) (events : List Event) : State :=
  { s with host := moves, delays := ds, trace := s.trace ++ events }

/-- `s` in CIPHER with the answer `a` to the request for `mixed` received, as U_RSP finds it. -/
def State.answered (s : State) (mixed : Bytes) (a : Answer) (moves : List HostMove) : State :=
  { s.progressed moves (s.delays.drop 1) [.request ⟨s.key, mixed⟩, .answer a] with
    mix := some mixed, req := some ⟨s.key, mixed⟩, phase := .cipher }

/-- In the loop block IDX and PREV have one length, so they can be mixed (R152). -/
theorem InLoop.mixed {p : Bytes} (hl : InLoop s) (hprev : s.prev = some p) :
    ∃ mixed, xorBytes (slice s.pbuf (s.idx * s.bsz.toNat) s.bsz.toNat) p = some mixed := by
  obtain ⟨q, hq, hqlen⟩ := hl.prev
  obtain rfl : p = q := Option.some.inj (hprev.symm.trans hq)
  have := hl.block_le
  exact ⟨_, xorBytes_eq_some.2 ⟨by rw [slice_length, hqlen]; omega, rfl⟩⟩

/-- In XOR the chainer mixes the block, makes its request and receives the answer (R70, R152). -/
theorem block_reached {p mixed : Bytes} (hl : InLoop s) (hp : s.phase = .xor) (hprev : s.prev = some p)
    (hx : xorBytes (slice s.pbuf (s.idx * s.bsz.toNat) s.bsz.toNat) p = some mixed)
    (hn : NoResetAhead s.host) (hd : Delay.never ∉ s.delays) :
    ∃ later, AfterIdles s.host later ∧
      Reaches E s (takeAnswer (E s.key mixed) (s.answered mixed (E s.key mixed) later)) := by
  obtain ⟨moves, hm, hs⟩ := stepWith_busy (E := E) (by rw [hp]; rfl) hn
  have hblock := memRead_eq_some.2 ⟨hl.block_le, rfl⟩
  have hsend : stepWith E s = .next (sendRequest mixed { s with host := moves }) := by
    rw [hs, ownStep_xor (s := { s with host := moves }) hp]
    exact uXor_next.2 ⟨p, _, hprev, hblock, .inr ⟨mixed, hx, rfl⟩⟩
  obtain ⟨later, hlater, hreach⟩ := answer_reached (E := E) (s := sendRequest mixed { s with host := moves })
    (r := ⟨s.key, mixed⟩) rfl rfl (hn.afterIdles hm) hd
  refine ⟨later, hm.trans hlater, (Reaches.of_step hsend).trans ?_⟩
  simpa [State.record, sendRequest, State.answered, State.progressed] using hreach

/-! ## A whole operation -/

/-- The end of an operation by what the function CBC gives: `end_ok` with the ciphertext, or `end_fail` (R166, R167). -/
def endOperation : Answer → State → State
  | .ok ct, s => endOk { s with out := ct }
  | .fail e, s => endFail e s

section Block

variable {mixed c : Bytes}

theorem takeAnswer_answered_fail (e : PrimError) :
    takeAnswer (.fail e) (s.answered mixed (.fail e) moves) =
      endOperation (.fail e) (s.progressed moves (s.delays.drop 1) (trafficEvents [(⟨s.key, mixed⟩, .fail e)])) := rfl

theorem takeAnswer_answered_wrongLength (hc : c.length ≠ s.bsz.toNat) :
    takeAnswer (.ok c) (s.answered mixed (.ok c) moves) =
      endOperation (.fail .invalidBlockSize)
        (s.progressed moves (s.delays.drop 1) (trafficEvents [(⟨s.key, mixed⟩, .ok c)])) :=
  takeAnswer_wrongLength (s := s.answered mixed (.ok c) moves) hc

theorem takeAnswer_answered_last (hc : c.length = s.bsz.toNat) (hlast : s.idx + 1 = s.nblk) :
    takeAnswer (.ok c) (s.answered mixed (.ok c) moves) =
      endOperation (.ok (s.out ++ c))
        (s.progressed moves (s.delays.drop 1) (trafficEvents [(⟨s.key, mixed⟩, .ok c)])) :=
  (takeAnswer_good (s := s.answered mixed (.ok c) moves) hc).trans (takeBlock_last hlast)

/-- `s` with block IDX encrypted to `c` and more to come (R163). -/
def State.afterBlock (s : State) (mixed c : Bytes) (moves : List HostMove) : State :=
  { s.answered mixed (.ok c) moves with
    out := s.out ++ c, req := none, prev := some c, idx := s.idx + 1, phase := .xor }

theorem takeAnswer_answered_more (hc : c.length = s.bsz.toNat) (hmore : s.idx + 1 ≠ s.nblk) :
    takeAnswer (.ok c) (s.answered mixed (.ok c) moves) = s.afterBlock mixed c moves :=
  (takeAnswer_good (s := s.answered mixed (.ok c) moves) hc).trans (takeBlock_notLast hmore)

/-- The end of an operation shows of a block only its request and answer. -/
theorem endOperation_afterBlock (a : Answer) (ps : List (Request × Answer)) :
    endOperation a ((s.afterBlock mixed c moves).progressed later ((s.delays.drop 1).drop ps.length) (trafficEvents ps)) =
      endOperation a (s.progressed later (s.delays.drop (ps.length + 1))
        (trafficEvents ((⟨s.key, mixed⟩, .ok c) :: ps))) := by
  have hdelays : (s.delays.drop 1).drop ps.length = s.delays.drop (ps.length + 1) := by
    rw [List.drop_drop, Nat.add_comm]
  have htrace : s.trace ++ [.request ⟨s.key, mixed⟩, .answer (.ok c)] ++ trafficEvents ps =
      s.trace ++ trafficEvents ((⟨s.key, mixed⟩, .ok c) :: ps) := List.append_assoc ..
  cases a <;>
    simp only [endOperation, State.progressed, State.afterBlock, State.answered, endOk, endFail, idleHidden, hdelays,
      htrace]

end Block

/-- The rest of an operation from block IDX on: the loop of R160, with its requests and answers (R171, R172). -/
theorem loop_reached {left : Nat} {p : Bytes} (hleft : s.idx + left = s.nblk) (hk : WellKept s) (hp : s.phase = .xor)
    (hprev : s.prev = some p) (hn : NoResetAhead s.host) (hd : Delay.never ∉ s.delays) :
    let traffic := cbcTrafficLoop E s.key s.pbuf s.bsz.toNat left s.idx p
    ∃ later, AfterIdles s.host later ∧ Reaches E s
      (endOperation (cbcLoop E s.key s.pbuf s.bsz.toNat left s.idx p s.out)
        (s.progressed later (s.delays.drop traffic.length) (trafficEvents traffic))) := by
  induction left generalizing s p with
  | zero =>
    have := (hk.loop (.inl hp)).idx
    omega
  | succ left ih =>
    have hl := hk.loop (.inl hp)
    obtain ⟨mixed, hx⟩ := hl.mixed hprev
    obtain ⟨moves, hm, hreach⟩ := block_reached (E := E) hl hp hprev hx hn hd
    cases hE : E s.key mixed with
    | fail e =>
      rw [hE, takeAnswer_answered_fail] at hreach
      simp only [cbcLoop, cbcTrafficLoop, hx, hE]
      exact ⟨moves, hm, hreach⟩
    | ok c =>
      rw [hE] at hreach
      by_cases hc : c.length = s.bsz.toNat
      · rw [cbcLoop_good hx hE hc, cbcTrafficLoop_good hx hE hc]
        by_cases hlast : s.idx + 1 = s.nblk
        · rw [takeAnswer_answered_last hc hlast] at hreach
          obtain rfl : left = 0 := by omega
          exact ⟨moves, hm, hreach⟩
        · rw [takeAnswer_answered_more hc hlast] at hreach
          have hleft' : s.idx + 1 + left = s.nblk := by omega
          obtain ⟨later, hlater, hrest⟩ := ih (s := s.afterBlock mixed c moves) (p := c) hleft' (hreach.wellKept hk)
            rfl rfl (hn.afterIdles hm) (fun h => hd (List.mem_of_mem_drop h))
          refine ⟨later, hm.trans hlater, hreach.trans ?_⟩
          rw [List.length_cons, ← endOperation_afterBlock]
          exact hrest
      · rw [takeAnswer_answered_wrongLength hc] at hreach
        simp only [cbcLoop, cbcTrafficLoop, hx, hE, hc, if_false]
        exact ⟨moves, hm, hreach⟩

/-- `s` as U_PAD leaves it, where the loop begins (R141). -/
def State.padded (s : State) : State :=
  { s with
    pbuf := pad s.pbuf s.bsz.toNat, prev := some s.iv, idx := 0
    nblk := (s.pbuf.length + padLen s.pbuf s.bsz.toNat) / s.bsz.toNat, phase := .xor }

/-- The end of an operation does not show what U_PAD loaded. -/
theorem endOperation_padded (a : Answer) (ds : List Delay) (events : List Event) :
    endOperation a (s.padded.progressed moves ds events) = endOperation a (s.progressed moves ds events) := by
  cases a <;> rfl

/-- The function CBC is R160's loop on what U_PAD loads. -/
theorem cbc_eq_loop_padded (hiv : s.iv.length = s.bsz.toNat) :
    cbc E s.key s.iv s.pbuf = cbcLoop E s.key s.padded.pbuf s.bsz.toNat s.padded.nblk 0 s.iv [] ∧
    cbcTraffic E s.key s.iv s.pbuf = cbcTrafficLoop E s.key s.padded.pbuf s.bsz.toNat s.padded.nblk 0 s.iv := by
  constructor
  · simp [cbc, State.padded, hiv, pad_length]
  · simp [cbcTraffic, State.padded, hiv, pad_length]

/-- From PAD the operation ends with what CBC gives of the message in PBUF (R171). -/
theorem pad_reached (hk : WellKept s) (hp : s.phase = .pad) (hn : NoResetAhead s.host) (hd : Delay.never ∉ s.delays) :
    let traffic := cbcTraffic E s.key s.iv s.pbuf
    ∃ later, AfterIdles s.host later ∧ Reaches E s
      (endOperation (cbc E s.key s.iv s.pbuf)
        (s.progressed later (s.delays.drop traffic.length) (trafficEvents traffic))) := by
  have hbusy : s.phase.busy = true := by rw [hp]; rfl
  have hbsz : s.bsz ≠ 0 := fun hz => absurd (hk.unconf.2 hz) (by simp [hp])
  obtain ⟨_, _, _, _, hout⟩ := hk.padding hp
  obtain ⟨moves, hm, hs⟩ := stepWith_busy (E := E) hbusy hn
  have hstep : stepWith E s = .next (State.padded { s with host := moves }) := by
    rw [hs, ownStep_pad (s := { s with host := moves }) hp]
    exact uPad_next.2 ⟨hbsz, rfl⟩
  have hreach := Reaches.of_step hstep
  obtain ⟨later, hlater, hend⟩ := loop_reached (E := E) (s := State.padded { s with host := moves }) (p := s.iv)
    (Nat.zero_add _) (hreach.wellKept hk) rfl rfl (hn.afterIdles hm) hd
  obtain ⟨hcbc, htraffic⟩ := cbc_eq_loop_padded (E := E) hk.iv
  refine ⟨later, hm.trans hlater, hreach.trans ?_⟩
  rw [endOperation_padded, show (State.padded { s with host := moves }).out = [] from hout] at hend
  rw [hcbc, htraffic]
  exact hend

/-- The end of an operation does not show how ENC began it. -/
theorem endOperation_startOperation (a : Answer) (ds : List Delay) (events events' : List Event) :
    endOperation a ((startOperation (s.exchanged moves events)).progressed later ds events') =
      endOperation a (State.progressed { s with msg := [] } later ds (events ++ events')) := by
  cases a <;>
    simp only [endOperation, State.progressed, State.exchanged, startOperation, endOk, endFail, idleHidden,
      List.append_assoc]

/-- An ENC accepted in READY: the operation on MSG ends with what CBC gives of it (R162, R171). -/
theorem enc_reached (hk : WellKept s) (hp : s.phase = .ready) (hh : s.host = .send (encode .enc) :: rest)
    (hn : NoResetAhead rest) (hd : Delay.never ∉ s.delays) :
    let traffic := cbcTraffic E s.key s.iv s.msg
    ∃ later, AfterIdles rest later ∧ Reaches E s
      (endOperation (cbc E s.key s.iv s.msg) (State.progressed { s with msg := [] } later
        (s.delays.drop traffic.length) ([.command (encode .enc)] ++ trafficEvents traffic))) := by
  have hstep : stepWith E s = .next (startOperation (s.exchanged rest [.command (encode .enc)])) := by
    rw [stepWith_instr (by rw [hp]; rfl) hh rfl]
    exact execEnc_next.2 (.inr ⟨by simp [hp], rfl⟩)
  have hreach := Reaches.of_step hstep
  obtain ⟨later, hl, hend⟩ := pad_reached (E := E) (hreach.wellKept hk) rfl hn hd
  rw [endOperation_startOperation] at hend
  exact ⟨later, hl, hreach.trans hend⟩

/-- Settles O58: PTB stages the plaintext, and the operation of ENC leaves its ciphertext (R102). -/
theorem encryptLeavesTheCiphertext : Obligations.EncryptLeavesTheCiphertext := by
  intro E s pt ct rest hk hp hmsg hroom hh hn hd hcbc
  rw [asmEncrypt, sends_append, List.append_assoc] at hh
  have hstaged := runWith_stage (E := E) (buf := .msg) (by rw [hp]; rfl) hh
    (by simpa [StagingBuffer.contents, StagingBuffer.capacity, hmsg] using hroom)
  obtain ⟨later, hl, n, hrun⟩ := enc_reached (E := E) (runWith_wellKept hk hstaged) hp rfl hn hd
  have hcbc' : cbc E s.key s.iv (s.msg ++ pt) = .ok ct := by rw [hmsg]; exact hcbc
  have hend : runWith E (pt.length + n) s = .next (endOperation (cbc E s.key s.iv (s.msg ++ pt)) _) :=
    runWith_trans hstaged hrun
  rw [hcbc'] at hend
  exact ⟨_, _, hend, rfl, rfl, rfl, hl, rfl, rfl, rfl, rfl⟩

/-! ## The assembler's examples -/

/-- Settles O60: the assembler run on each of R100's lines. -/
theorem assemblerExamples : Obligations.AssemblerExamples := by
  refine ⟨?_, ?_, ?_, ?_, ?_, ?_, ?_, ?_, ?_⟩ <;> decide

end Sys2Proof.Machine

/-! PROOFS. Staging and construction (spec/40_staging_and_construction.md): KEYB, IVB and INIT, with their faults. -/

namespace Sys2Proof

/-! ## A command's word by its formula -/

/-- With RSV zero, R91's formula for the word is `(OP << 12) | IMM`: bits [11:0] are IMM's, those above OP's. -/
theorem encode_eq_or (i : Instr) : encode i = i.op.setWidth 16 <<< 12 ||| i.imm.setWidth 16 := by
  refine BitVec.eq_of_getLsbD_eq fun k hk => ?_
  rw [encode, BitVec.getLsbD_append, BitVec.getLsbD_append]
  by_cases hlow : k < 12
  · simpa [hlow, hk] using BitVec.lt_of_getLsbD
  · have himm : i.imm.getLsbD k = false := BitVec.getLsbD_of_ge _ _ (by omega)
    simp [hlow, hk, himm]

/-- The word with the operation code and the operand of a well-formed command decodes to it (R91, R93). -/
theorem decode_or {i : Instr} (hwf : i.WellFormed) :
    decode (i.op.setWidth 16 <<< 12 ||| i.imm.setWidth 16) = .ok i :=
  decode_eq_ok_iff.2 ⟨hwf, encode_eq_or i⟩

end Sys2Proof

namespace Sys2Proof.Machine

variable {s : State} {buf : StagingBuffer} {b : Byte}

/-! ## KEYB and IVB -/

/-- KEYB, IVB and PTB to a full buffer are CapacityError (R227). -/
theorem exec_stagingInstr_full (h : full (buf.capacity s) (buf.contents s) = true) :
    exec (buf.instr b) s = .next (commandFault .capacity s) := by
  cases buf with
  | keys => exact execKeyb_next.2 (.inl ⟨h, rfl⟩)
  | ivs => exact execIvb_next.2 (.inl ⟨h, rfl⟩)
  | msg => exact execPtb_next.2 (.inl ⟨h, rfl⟩)

/-- Settles O7: whether KEYS is full decides between R120's two cases. -/
theorem keybAppendsToKeys : Obligations.KeybAppendsToKeys := by
  intro b s
  refine ⟨decode_or (i := .keyb b) rfl, fun hroom => ?_, fun m hm hle => ?_⟩
  · exact exec_stagingInstr (buf := .keys) (full_eq_false.2 hroom)
  · exact exec_stagingInstr_full (buf := .keys) (full_eq_true.2 ⟨m, hm, hle⟩)

/-- Settles O8: whether IVS holds its 255 bytes decides between R121's two cases. -/
theorem ivbAppendsToIvs : Obligations.IvbAppendsToIvs := by
  intro b s
  refine ⟨decode_or (i := .ivb b) rfl, fun hroom => ?_, fun hle => ?_⟩
  · exact exec_stagingInstr (buf := .ivs) (full_eq_false.2 fun _ hm => by cases hm; exact hroom)
  · exact exec_stagingInstr_full (buf := .ivs) (full_eq_true.2 ⟨ivsMax, rfl, hle⟩)

/-! ## INIT -/

/-- BSZ has room for the length of every IV that IVS can hold (R24, R26). -/
theorem construct_bsz_toNat (h : s.ivs.length ≤ ivsMax) : (construct s).bsz.toNat = s.ivs.length := by
  have hlt : s.ivs.length < 2 ^ 8 := Nat.lt_succ_of_le h
  rw [construct_bsz, BitVec.toNat_ofNat, Nat.mod_eq_of_lt hlt]

/-- Settles O9: the block size is the one `construct` writes, and an empty IVS is R122's fault. -/
theorem initConstructsTheEncryptor : Obligations.InitConstructsTheEncryptor := by
  refine ⟨decode_or (i := .init) rfl, fun s => ⟨fun hpos hle => ?_, fun hivs => ?_⟩⟩
  · have hne : s.ivs ≠ [] := List.ne_nil_of_length_pos hpos
    exact ⟨(construct s).bsz, construct_bsz_toNat hle, execInit_next.2 (.inr ⟨hne, hle, rfl⟩)⟩
  · exact execInit_next.2 (.inl ⟨hivs, rfl⟩)

end Sys2Proof.Machine

/-! PROOFS. The PKCS#7 padder (spec/41_padding.md): what `pad` adds (R142), the way back (R143) and U_PAD (R141). -/

namespace Sys2Proof.Machine

variable {d : Bytes} {b : Nat} {n : Byte}

/-! ## The padding length and the pad byte -/

theorem padLen_pos (d : Bytes) (hb : 0 < b) : 0 < padLen d b :=
  Nat.sub_pos_of_lt (Nat.mod_lt _ hb)

theorem padLen_le (d : Bytes) (b : Nat) : padLen d b ≤ b := Nat.sub_le _ _

/-- The padding length fits a byte for every block size up to 255 (R144), so the appended bytes carry it unwrapped. -/
theorem pad_eq_append_replicate (d : Bytes) (hb : b ≤ 255) :
    ∃ n : Byte, n.toNat = padLen d b ∧ pad d b = d ++ List.replicate n.toNat n := by
  have hlt : padLen d b < 2 ^ 8 := Nat.lt_succ_of_le ((padLen_le d b).trans hb)
  have hbyte : (BitVec.ofNat 8 (padLen d b)).toNat = padLen d b := by
    rw [BitVec.toNat_ofNat, Nat.mod_eq_of_lt hlt]
  exact ⟨BitVec.ofNat 8 (padLen d b), hbyte, by rw [hbyte]; rfl⟩

theorem pad_length_eq_mul (d : Bytes) (hb : 0 < b) : (pad d b).length = (d.length / b + 1) * b := by
  rw [pad_length, length_add_padLen d hb]

/-- Settles O43: the lengths are `padLen`'s, and what is added is copies of the one pad byte. -/
theorem paddingAddsOneToBlockSizeBytes : Obligations.PaddingAddsOneToBlockSizeBytes := by
  intro d b hpos hle
  have hlen := pad_length d b
  have hblocks := pad_length_eq_mul d hpos
  have hone := padLen_pos d hpos
  obtain ⟨n, hn, hpad⟩ := pad_eq_append_replicate d hle
  refine ⟨?_, by omega, by omega, hone, padLen_le d b, hblocks, ?_, fun x hx => ?_⟩
  · rw [hblocks, Nat.mul_mod_left]
  · rw [hpad, List.take_left]
  · rw [hpad, List.drop_left] at hx
    rw [List.eq_of_mem_replicate hx, hn]

/-! ## The way back -/

/-- The last byte says how many bytes to remove, provided that there is one. -/
theorem unpad_append_replicate (hn : 0 < n.toNat) : unpad (d ++ List.replicate n.toNat n) = some d := by
  have hlast : (d ++ List.replicate n.toNat n).getLast? = some n := by
    simp [List.getLast?_append, List.getLast?_replicate, hn.ne']
  simp [unpad, hlast, slice]

/-- Settles O44: the padding is never empty, so the last byte is the pad byte. -/
theorem unpadInvertsPad : Obligations.UnpadInvertsPad := by
  intro d b hpos hle
  obtain ⟨n, hn, hpad⟩ := pad_eq_append_replicate d hle
  rw [hpad, unpad_append_replicate (hn ▸ padLen_pos d hpos)]

/-! ## U_PAD -/

/-- Settles O17: in PAD the step is U_PAD, whose `pad` and block count are those of R142. -/
theorem uPadPadsAndLoadsTheSequencer : Obligations.UPadPadsAndLoadsTheSequencer := by
  intro E s hp hh hbsz
  have hpos : 0 < s.bsz.toNat := Nat.pos_of_ne_zero fun hz => hbsz (BitVec.eq_of_toNat_eq hz)
  obtain ⟨n, hn, hpad⟩ := pad_eq_append_replicate s.pbuf (Nat.le_of_lt_succ s.bsz.isLt)
  have hnblk : (s.pbuf.length + padLen s.pbuf s.bsz.toNat) / s.bsz.toNat = s.pbuf.length / s.bsz.toNat + 1 := by
    rw [length_add_padLen _ hpos, Nat.mul_div_cancel _ hpos]
  refine ⟨n, hn, ?_⟩
  rw [stepWith_waiting (by rw [hp]; rfl) hh, ownStep_pad hp, uPad_next, hpad, hnblk]
  exact ⟨hbsz, rfl⟩

end Sys2Proof.Machine

/-! PROOFS. Block XOR (spec/42_block_xor.md): `xor_bytes` byte by byte (R150, R151), its laws (R153) and U_XOR (R152). -/

namespace Sys2Proof.Machine

variable {a b c x y : Bytes}

/-! ## `xor_bytes` byte by byte -/

/-- R150, the rule that the proofs below use. Past the end all three sequences read as 0, so `j` needs no bound. -/
theorem xorBytes_eq_some_iff_getD : xorBytes a b = some c ↔
    a.length = b.length ∧ c.length = a.length ∧ ∀ j, c.getD j 0 = a.getD j 0 ^^^ b.getD j 0 := by
  have hbyte (hab : a.length = b.length) (j : Nat) :
      (List.zipWith (fun u v => u ^^^ v) a b).getD j 0 = a.getD j 0 ^^^ b.getD j 0 := by
    by_cases hj : j < b.length <;> simp [hab, hj]
  rw [xorBytes_eq_some]
  constructor
  · rintro ⟨hab, rfl⟩
    exact ⟨hab, by simp [hab], hbyte hab⟩
  · rintro ⟨hab, hca, hc⟩
    refine ⟨hab, List.ext_getElem (by simp [hca, hab]) fun j hjc hjz => ?_⟩
    rw [← List.getD_eq_getElem _ 0 hjc, ← List.getD_eq_getElem _ 0 hjz, hc, hbyte hab]

theorem exists_xorBytes_eq_some (h : a.length = b.length) : ∃ c, xorBytes a b = some c :=
  ⟨_, xorBytes_eq_some.2 ⟨h, rfl⟩⟩

/-- Settles O45: equal lengths give a value, whose bytes are those of R150; unequal lengths give none (R151). -/
theorem xorBytesIsBytewise : Obligations.XorBytesIsBytewise := by
  intro a b
  refine ⟨fun h => ?_, xorBytes_eq_none.2⟩
  obtain ⟨c, hc⟩ := exists_xorBytes_eq_some h
  obtain ⟨_, hlen, hbyte⟩ := xorBytes_eq_some_iff_getD.1 hc
  exact ⟨c, hc, hlen, fun j _ => hbyte j⟩

/-! ## The laws -/

theorem xorBytes_comm (a b : Bytes) : xorBytes a b = xorBytes b a := by
  refine Option.ext fun c => ?_
  rw [xorBytes_eq_some, xorBytes_eq_some, eq_comm, List.zipWith_comm_of_comm BitVec.xor_comm]

/-- The result and the first argument may change places, since a byte cancels itself. -/
theorem xorBytes_swap (h : xorBytes a b = some c) : xorBytes c b = some a := by
  obtain ⟨hab, hca, hbyte⟩ := xorBytes_eq_some_iff_getD.1 h
  refine xorBytes_eq_some_iff_getD.2 ⟨hca.trans hab, hca.symm, fun j => ?_⟩
  rw [hbyte, BitVec.xor_assoc, BitVec.xor_self, BitVec.xor_zero]

theorem xorBytes_injective_left (h : a.length = b.length) (heq : xorBytes a b = xorBytes c b) : a = c := by
  obtain ⟨x, hx⟩ := exists_xorBytes_eq_some h
  exact Option.some.inj ((xorBytes_swap hx).symm.trans (xorBytes_swap (heq ▸ hx)))

theorem xorBytes_assoc (hx : xorBytes a b = some x) (hy : xorBytes b c = some y) : xorBytes x c = xorBytes a y := by
  obtain ⟨hab, hxa, hxbyte⟩ := xorBytes_eq_some_iff_getD.1 hx
  obtain ⟨hbc, hyb, hybyte⟩ := xorBytes_eq_some_iff_getD.1 hy
  obtain ⟨z, hz⟩ := exists_xorBytes_eq_some (hxa.trans (hab.trans hbc))
  obtain ⟨_, hzx, hzbyte⟩ := xorBytes_eq_some_iff_getD.1 hz
  rw [hz, eq_comm]
  refine xorBytes_eq_some_iff_getD.2 ⟨hab.trans hyb.symm, hzx.trans hxa, fun j => ?_⟩
  rw [hzbyte, hxbyte, hybyte, BitVec.xor_assoc]

theorem xorBytes_zeros (a : Bytes) : xorBytes a (rep a.length 0) = some a := by
  refine xorBytes_eq_some_iff_getD.2 ⟨by simp [rep], rfl, fun j => ?_⟩
  have hzero : (rep a.length 0).getD j 0 = 0#8 := by
    by_cases hj : j < a.length <;> simp [rep, hj]
  rw [hzero, BitVec.xor_zero]

theorem xorBytes_self (a : Bytes) : xorBytes a a = some (rep a.length 0) :=
  xorBytes_swap ((xorBytes_comm _ a).trans (xorBytes_zeros a))

/-- Settles O46: the inverse laws are all `xorBytes_swap`, the second argument's are the first's by commutativity. -/
theorem xorBytesLaws : Obligations.XorBytesLaws := by
  rintro n a b c rfl hb hc
  obtain ⟨x, hx⟩ := exists_xorBytes_eq_some hb.symm
  refine ⟨xorBytes_comm a b, ?assoc, xorBytes_zeros a, xorBytes_self a, ?undo,
    xorBytes_injective_left hb.symm, ?injective, ?surjective⟩
  case assoc =>
    obtain ⟨y, hy⟩ := exists_xorBytes_eq_some (hb.trans hc.symm)
    rw [hx, hy]
    exact xorBytes_assoc hx hy
  case undo => rw [hx]; exact xorBytes_swap hx
  case injective =>
    rw [xorBytes_comm a b, xorBytes_comm a c]
    exact xorBytes_injective_left hb
  case surjective =>
    obtain ⟨y, hy⟩ := exists_xorBytes_eq_some (hc.trans hb.symm)
    exact ⟨y, (xorBytes_length hy).1.trans hc, xorBytes_swap hy⟩

/-! ## U_XOR -/

theorem slice_getD {s : Bytes} {off n j : Nat} (hj : j < n) : (slice s off n).getD j 0 = s.getD (off + j) 0 := by
  simp [slice, List.getElem?_drop, hj]

/-- Settles O18: in XOR the step is U_XOR, whose mix has a value exactly when PREV has the block's length (R151). -/
theorem uXorMixesAndRequests : Obligations.UXorMixesAndRequests := by
  intro E s p hp hh hprev hinside
  have hstep : stepWith E s = uXor s := by rw [stepWith_waiting (by rw [hp]; rfl) hh, ownStep_xor hp]
  have hread := memRead_eq_some.2 ⟨hinside, rfl⟩
  have hlen := memRead_length hread
  rw [hstep]
  refine ⟨fun heq => ?_, fun hne => ?_⟩
  · obtain ⟨m, hm⟩ := exists_xorBytes_eq_some (hlen.trans heq.symm)
    obtain ⟨_, hmlen, hbyte⟩ := xorBytes_eq_some_iff_getD.1 hm
    refine ⟨m, hmlen.trans hlen, fun j hj => ?_, uXor_next.2 ⟨p, _, hprev, hread, .inr ⟨m, hm, rfl⟩⟩⟩
    rw [hbyte, slice_getD hj]
  · have hnone := xorBytes_eq_none.2 fun h => hne (h.symm.trans hlen)
    exact uXor_next.2 ⟨p, _, hprev, hread, .inl ⟨hnone, rfl⟩⟩

end Sys2Proof.Machine

/-! PROOFS. Chained encryption (spec/43_chained_encryption.md): PTB, ENC and RDB (R161, R162, R170), U_RSP with both
ends of an operation (R163 to R167), the state machine (R168, R169), the function CBC (R160, R172, R175 to R177) and the
operation that computes it (R171, R174). -/

namespace Sys2Proof.Machine

variable {E : Primitive} {s s' t : State} {i : Instr}

/-! ## PTB, ENC and RDB -/

/-- Settles O10: whether MSG is full decides between R161's two cases. -/
theorem ptbAppendsToMsg : Obligations.PtbAppendsToMsg := by
  intro b s
  refine ⟨decode_or (i := .ptb b) rfl, fun hroom => ?_, fun m hm hle => ?_⟩
  · exact exec_stagingInstr (buf := .msg) (full_eq_false.2 hroom)
  · exact exec_stagingInstr_full (buf := .msg) (full_eq_true.2 ⟨m, hm, hle⟩)

/-- Settles O11: STATE decides between R162's acceptance and the fault of R225. -/
theorem encStartsTheOperation : Obligations.EncStartsTheOperation := by
  refine ⟨decode_or (i := .enc) rfl, fun s => ⟨fun hp => ?_, fun hp => ?_⟩⟩
  · exact execEnc_next.2 (.inr ⟨by simp [hp], rfl⟩)
  · exact execEnc_next.2 (.inl ⟨hp, rfl⟩)

/-- Settles O12: whether OUT is empty decides between R170's two cases. -/
theorem rdbPopsTheFirstByte : Obligations.RdbPopsTheFirstByte := by
  refine ⟨decode_or (i := .rdb) rfl, fun s => ⟨fun d rest hout => ?_, fun hout => ?_⟩⟩
  · rw [← responseWord_data]
    exact execRdb_next.2 (.inr ⟨d, rest, hout, rfl⟩)
  · exact execRdb_next.2 (.inl ⟨hout, rfl⟩)

/-! ## U_RSP -/

/-- With no delay left, a request is answered at the next step, and U_RSP takes the answer in it (R70). -/
theorem stepWith_answer {r : Request} {a : Answer} (hp : s.phase = .cipher) (hh : HostWaits s.host)
    (hd : s.delays = []) (hr : s.req = some r) (hE : E r.key r.block = a) :
    stepWith E s = .next (takeAnswer a (s.record (.answer a))) := by
  rw [stepWith_waiting (by rw [hp]; rfl) hh, ownStep_cipher hp, primitiveStep, hd]
  exact uRsp_next.2 ⟨r, hr, by rw [hE]⟩

/-- `end_fail` at U_RSP, with all that it writes (R167). -/
theorem endFail_record (e : PrimError) (a : Answer) (s : State) :
    endFail e (s.record (.answer a)) =
      { s with
        out := [], pbuf := [], prev := none, mix := none, idx := 0, nblk := 0, req := none
        cause := primCause e, phase := .ready
        trace := s.trace ++ [.answer a, .response (responseWord true false (primCause e) 0#8)] } := by
  simp [endFail, idleHidden, respond, State.record]

/-- Settles O19: of the answers that have BSZ bytes the last one ends the operation, and the others carry it on. -/
theorem uRspTakesAGoodBlock : Obligations.URspTakesAGoodBlock := by
  intro E s r c hp hh hd hr hE hc
  have hstep : stepWith E s = .next (takeBlock c (s.record (.answer (.ok c)))) := by
    rw [stepWith_answer hp hh hd hr hE, takeAnswer_good (s := s.record _) hc]
  refine ⟨fun hmore => ?_, fun hlast => ?_⟩
  · rw [hstep, takeBlock_notLast (s := s.record _) hmore]
    rfl
  · rw [hstep, takeBlock_last (s := s.record _) hlast]
    simp [endOk, respondDone, respond, idleHidden, State.record]

/-- Settles O20: each of the three answers is taken by `end_fail`. -/
theorem uRspFailsTheOperation : Obligations.URspFailsTheOperation := by
  intro E s r hp hh hd hr
  refine ⟨fun hE => ?rejectsKey, fun hE => ?rejectsBlock, fun c hE hc => ?wrongLength⟩
  case rejectsKey => rw [stepWith_answer hp hh hd hr hE, takeAnswer_fail, endFail_record]; rfl
  case rejectsBlock => rw [stepWith_answer hp hh hd hr hE, takeAnswer_fail, endFail_record]; rfl
  case wrongLength =>
    rw [stepWith_answer hp hh hd hr hE, takeAnswer_wrongLength (s := s.record _) hc, endFail_record]; rfl

/-! ## The state machine -/

/-- The rows of R168's table that need no host, and what is in OUT when the last of them ends the operation (R169). -/
inductive OwnTransition (s s' : State) : Prop where
  /-- STATE stays. -/
  | stays (hp : s'.phase = s.phase)
  /-- U_PAD. -/
  | padded (hp : s.phase = .pad) (hp' : s'.phase = .xor) (hidx : s'.idx = 0)
  /-- U_XOR. -/
  | requested (hp : s.phase = .xor) (hp' : s'.phase = .cipher) (hidx : s'.idx = s.idx)
  /-- U_RSP with a block to go. -/
  | nextBlock (hp : s.phase = .cipher) (hp' : s'.phase = .xor) (hmore : s.idx + 1 < s.nblk) (hidx : s'.idx = s.idx + 1)
  /-- U_RSP at an end of the operation. -/
  | ended (hp : s.phase = .cipher) (hp' : s'.phase = .ready) (hidx : s'.idx = 0)
      (hout : s'.out = [] ∨ s'.out.length = s.nblk * s.bsz.toNat)

/-- U_RSP leaves CIPHER: with `end_fail` OUT is empty, and after block NBLK - 1 it has one block more than the IDX it
had in the loop (R163 to R167). What is left of the delays plays no part. -/
theorem uRsp_transition {ds : List Delay} (hk : WellKept s) (hp : s.phase = .cipher)
    (h : uRsp E { s with delays := ds } = .next s') : OwnTransition s s' := by
  have hl := hk.loop (.inr hp)
  obtain ⟨r, _, ⟨e, rfl⟩ | ⟨c, _, hc, ⟨hlast, rfl⟩ | ⟨hmore, rfl⟩⟩⟩ := uRsp_cases h
  · exact .ended hp rfl rfl (.inl rfl)
  · refine .ended hp rfl rfl (.inr ?_)
    calc (s.out ++ c).length = s.idx * s.bsz.toNat + s.bsz.toNat := by rw [List.length_append, hl.out, hc]
      _ = (s.idx + 1) * s.bsz.toNat := (Nat.succ_mul _ _).symm
      _ = s.nblk * s.bsz.toNat := congrArg (· * s.bsz.toNat) hlast
  · exact .nextBlock hp rfl (Nat.lt_of_le_of_ne hl.idx hmore) rfl

theorem ownStep_transition (hk : WellKept s) (h : ownStep E s = .next s') : OwnTransition s s' := by
  rcases ownStep_next h with ⟨_, rfl⟩ | ⟨hp, hu⟩ | ⟨hp, hx⟩ | ⟨hp, hr⟩
  · exact .stays rfl
  · obtain ⟨_, rfl⟩ := uPad_next.1 hu
    exact .padded hp rfl rfl
  · obtain ⟨_, mixed, _, _, _, rfl⟩ := uXor_inLoop (hk.loop (.inl hp)) hx
    exact .requested hp rfl rfl
  · rcases primitiveStep_next hr with ⟨ds, rfl⟩ | ⟨ds, hu⟩
    · exact .stays rfl
    · exact uRsp_transition hk hp hu

/-- The rows of R168's table for a command in a quiescent STATE: INIT, ENC and CLR with bit 5 change STATE. -/
theorem exec_transition (hb : s.phase.busy = false) (h : exec i s = .next s') :
    s'.phase = s.phase ∨
    (i = .init ∧ s.ivs ≠ [] ∧ s'.phase = .ready ∧ s'.idx = s.idx) ∨
    (i = .enc ∧ s.phase = .ready ∧ s'.phase = .pad ∧ s'.idx = s.idx) ∨
    (s.phase = .ready ∧ s'.phase = .unconf ∧ s'.idx = s.idx ∧
      ∃ m : Byte, m.toNat < 0x40 ∧ m.getLsbD 5 = true ∧ i = .clr m) := by
  rcases exec_answeredAtOnce h with ⟨hi, hp, rfl⟩ | ha
  · exact .inr (.inr (.inl ⟨hi, (Phase.not_busy.1 hb).resolve_left hp, rfl, rfl⟩))
  · rcases exec_encryptor h with ⟨_, hunconf⟩ | ⟨hi, hivs, _, rfl⟩ | ⟨mask, m, hi, hm, he, rfl⟩
    · left
      rcases Phase.not_busy.1 hb with hp | hp
      · rw [hp, hunconf, hp]
      · rw [hp]
        exact (Phase.not_busy.1 (ha.busy hb)).resolve_left fun hu => by simp [hunconf, hp] at hu
    · exact .inr (.inl ⟨hi, hivs, rfl, rfl⟩)
    · obtain ⟨hlt, hbit⟩ := clearMask_encryptor hm he
      have hp' : (respondDone (clearEncryptor m (clearItems m s))).phase = .unconf := by simp [he]
      rcases Phase.not_busy.1 hb with hp | hp
      · exact .inl (hp'.trans hp.symm)
      · exact .inr (.inr (.inr ⟨hp, hp', by simp, mask, hlt, hbit, hi⟩))

/-- Settles O35: a step is a reset, an accepted word, of whose commands three change STATE, or a step without the
host. -/
theorem onlyTheListedTransitions : Obligations.OnlyTheListedTransitions := by
  intro E s s' hk h
  rcases stepWith_next h with ⟨rest, hh, rfl⟩ | ⟨w, rest, hh, hb, hw⟩ | ⟨moves, ho, _⟩
  · exact .inr (.inl ⟨rfl, rfl, rest, hh⟩)
  · have hidle : s.idx = 0 := (hk.quiescent hb).idx
    have hhost : s.host = .send w :: s'.host := by rw [hh, acceptWord_host hw]
    rcases acceptWord_next hw with ⟨_, rfl⟩ | ⟨i, hi, hx⟩
    · exact .inl rfl
    · obtain rfl := encode_of_decode hi
      obtain hp | ⟨rfl, hivs, hp', hidx⟩ | ⟨rfl, hp, hp', hidx⟩ | ⟨hp, hp', hidx, m, hlt, hbit, rfl⟩ :=
        exec_transition (s := State.record { s with host := rest } _) hb hx
      · exact .inl hp
      · exact .inr (.inr (.inl ⟨hb, hhost, hivs, hp', hidx.trans hidle⟩))
      · exact .inr (.inr (.inr (.inl ⟨hp, hhost, hp', hidx.trans hidle⟩)))
      · exact .inr (.inr (.inr (.inr (.inl ⟨hp, hp', hidx.trans hidle, m, hlt, hbit, hhost⟩))))
  · obtain hp | ⟨hp, hp', hidx⟩ | ⟨hp, hp', hidx⟩ | ⟨hp, hp', hmore, hidx⟩ | ⟨hp, hp', hidx, _⟩ :=
      ownStep_transition (wellKept_host hk moves) ho
    · exact .inl hp
    · exact .inr (.inr (.inr (.inr (.inr (.inl ⟨hp, hp', hidx⟩)))))
    · exact .inr (.inr (.inr (.inr (.inr (.inr (.inl ⟨hp, hp', hidx⟩))))))
    · exact .inr (.inr (.inr (.inr (.inr (.inr (.inr (.inl ⟨hp, hp', hmore, hidx⟩)))))))
    · exact .inr (.inr (.inr (.inr (.inr (.inr (.inr (.inr ⟨hp, hp', hidx⟩)))))))

/-- Settles O37: of the steps of a busy chainer only a reset and `OwnTransition.ended` leave it quiescent. -/
theorem operationEndsWithAllOrNothing : Obligations.OperationEndsWithAllOrNothing := by
  intro E s s' hk hb h hb'
  rcases stepWith_next h with ⟨rest, _, rfl⟩ | ⟨w, rest, _, hquiet, _⟩ | ⟨moves, ho, _⟩
  · exact .inl rfl
  · rw [hb] at hquiet; cases hquiet
  · obtain hp | ⟨_, hp', _⟩ | ⟨_, hp', _⟩ | ⟨_, hp', _, _⟩ | ⟨_, hp', _, hout⟩ :=
      ownStep_transition (wellKept_host hk moves) ho
    · rw [hp, hb] at hb'; cases hb'
    · rw [hp'] at hb'; cases hb'
    · rw [hp'] at hb'; cases hb'
    · rw [hp'] at hb'; cases hb'
    · exact hout.imp_right fun hlen => ⟨hlen, hp'⟩

/-! ## Blocks of a byte sequence -/

section Blocks

variable {x y c : Bytes} {b k : Nat}

theorem block_length (h : (k + 1) * b ≤ x.length) : (block x b k).length = b := by
  rw [Nat.succ_mul] at h
  rw [block, slice_length]
  omega

theorem block_getElem? {j : Nat} (hj : j < b) : (block x b k)[j]? = x[k * b + j]? := by
  simp [block, slice, hj]

/-- Two sequences have one block `k` when they agree at its indices. -/
theorem block_eq_iff : block x b k = block y b k ↔ ∀ j, j < b → x[k * b + j]? = y[k * b + j]? := by
  refine ⟨fun h j hj => ?_, fun h => List.ext_getElem? fun j => ?_⟩
  · rw [← block_getElem? hj, ← block_getElem? hj, h]
  · by_cases hj : j < b
    · rw [block_getElem? hj, block_getElem? hj, h j hj]
    · simp [block, slice, hj]

/-- After `k` whole blocks comes block `k`. -/
theorem block_of_prefix (hx : x.length = k * b) (hc : c.length = b) (h : x ++ c <+: y) : block y b k = c := by
  obtain ⟨rest, rfl⟩ := h
  rw [block, slice, ← hx, ← hc, List.append_assoc, List.drop_left, List.take_left]

end Blocks

/-! ## The function CBC, a block at a time -/

section Cbc

variable {key iv padded prev out ct pt : Bytes} {b left n : Nat} {e : PrimError}

/-- The answer `a` fails an encryption of `b`-byte blocks with code `e`: it is a rejection, or of another length
(R164, R165). -/
def FailsWith (b : Nat) (a : Answer) (e : PrimError) : Prop :=
  a = .fail e ∨ (e = .invalidBlockSize ∧ ∃ c, a = .ok c ∧ c.length ≠ b)

/-- One turn of R160's loop mixes block `n` with `prev` and requests it; a bad answer is the end, and a good one is what
`cbcLoop_good` and `cbcTrafficLoop_good` go on with. -/
theorem cbcLoop_turn (E : Primitive) (key : Bytes) (left : Nat) (out : Bytes)
    (hin : (n + 1) * b ≤ padded.length) (hprev : prev.length = b) :
    ∃ mixed, mixed.length = b ∧ xorBytes (block padded b n) prev = some mixed ∧
      ((∃ e, FailsWith b (E key mixed) e ∧ cbcLoop E key padded b (left + 1) n prev out = .fail e ∧
          cbcTrafficLoop E key padded b (left + 1) n prev = [(⟨key, mixed⟩, E key mixed)]) ∨
       ∃ c, E key mixed = .ok c ∧ c.length = b) := by
  obtain ⟨mixed, hx⟩ := exists_xorBytes_eq_some ((block_length hin).trans hprev.symm)
  refine ⟨mixed, (xorBytes_length hx).2.trans hprev, hx, ?_⟩
  rw [block] at hx
  cases hE : E key mixed with
  | fail e => exact .inl ⟨e, .inl rfl, by simp [cbcLoop, hx, hE], by simp [cbcTrafficLoop, hx, hE]⟩
  | ok c =>
    by_cases hc : c.length = b
    · exact .inr ⟨c, rfl, hc⟩
    · exact .inl ⟨.invalidBlockSize, .inr ⟨rfl, c, rfl, hc⟩, by simp [cbcLoop, hx, hE, hc],
        by simp [cbcTrafficLoop, hx, hE, hc]⟩

/-- With `left + 1` blocks to go block `n` is inside the message, and then `left` blocks from `n + 1` on. -/
theorem blocks_inside {len : Nat} (hin : (n + (left + 1)) * b ≤ len) :
    (n + 1) * b ≤ len ∧ (n + 1 + left) * b ≤ len :=
  ⟨(Nat.mul_le_mul_right b (by omega)).trans hin, (Nat.mul_le_mul_right b (by omega)).trans hin⟩

/-- A loop that fails has made its last request at the block whose answer fails it. -/
theorem cbcLoop_fail (hin : (n + left) * b ≤ padded.length) (hprev : prev.length = b)
    (h : cbcLoop E key padded b left n prev out = .fail e) :
    (cbcTrafficLoop E key padded b left n prev).length ≤ left ∧
    ∃ before r a, cbcTrafficLoop E key padded b left n prev = before ++ [(r, a)] ∧
      (∀ q ∈ before, ∃ c, q.2 = .ok c ∧ c.length = b) ∧ FailsWith b a e := by
  induction left generalizing n prev out with
  | zero => cases h
  | succ left ih =>
    obtain ⟨hblock, hrest⟩ := blocks_inside hin
    obtain ⟨mixed, _, hx, ⟨e', ha, hloop, htraffic⟩ | ⟨c, hE, hc⟩⟩ := cbcLoop_turn E key left out hblock hprev
    · obtain rfl : e' = e := Answer.fail.inj (hloop.symm.trans h)
      rw [htraffic]
      exact ⟨Nat.le_add_left 1 left, [], _, _, rfl, by simp, ha⟩
    · rw [cbcLoop_good hx hE hc] at h
      rw [cbcTrafficLoop_good hx hE hc]
      obtain ⟨hlen, before, r, a, htraffic, hgood, ha⟩ := ih hrest hc h
      refine ⟨Nat.succ_le_succ hlen, (⟨key, mixed⟩, .ok c) :: before, r, a, by rw [htraffic]; rfl, ?_, ha⟩
      exact List.forall_mem_cons.2 ⟨⟨c, rfl, hc⟩, hgood⟩

/-- A loop that succeeds appends all its blocks, and makes one request for each. -/
theorem cbcLoop_ok (hin : (n + left) * b ≤ padded.length) (hprev : prev.length = b)
    (h : cbcLoop E key padded b left n prev out = .ok ct) :
    out <+: ct ∧ ct.length = out.length + left * b ∧ (cbcTrafficLoop E key padded b left n prev).length = left := by
  induction left generalizing n prev out with
  | zero => cases h; simp [cbcTrafficLoop]
  | succ left ih =>
    obtain ⟨hblock, hrest⟩ := blocks_inside hin
    obtain ⟨mixed, _, hx, ⟨e', _, hloop, _⟩ | ⟨c, hE, hc⟩⟩ := cbcLoop_turn E key left out hblock hprev
    · cases hloop.symm.trans h
    · rw [cbcLoop_good hx hE hc] at h
      obtain ⟨hout, hlen, htraffic⟩ := ih hrest hc h
      refine ⟨(List.prefix_append _ _).trans hout, ?_, by rw [cbcTrafficLoop_good hx hE hc, List.length_cons, htraffic]⟩
      rw [hlen, List.length_append, hc, Nat.succ_mul]
      omega

/-- What block `k` of the message is mixed with: the IV, then the cipher block before (R160). -/
def previousBlock (iv ct : Bytes) (b k : Nat) : Bytes := if k = 0 then iv else block ct b (k - 1)

/-- R160's equations for block `k`: `mixed` is `P_k xor C_(k-1)`, and its answer is `C_k`. -/
structure MixedBlock (E : Primitive) (key iv padded ct : Bytes) (b k : Nat) (mixed : Bytes) : Prop where
  length : mixed.length = b
  xor : xorBytes (block padded b k) (previousBlock iv ct b k) = some mixed
  answer : E key mixed = .ok (block ct b k)

/-- A loop that succeeds and starts from what block `n` is mixed with goes through R160's equations, one request each. -/
theorem cbcLoop_mixedBlock (hin : (n + left) * b ≤ padded.length) (hlen : prev.length = b)
    (hprev : prev = previousBlock iv ct b n) (hout : out.length = n * b)
    (h : cbcLoop E key padded b left n prev out = .ok ct) :
    ∀ k, k < left → ∃ mixed, MixedBlock E key iv padded ct b (n + k) mixed ∧
      (cbcTrafficLoop E key padded b left n prev)[k]? = some (⟨key, mixed⟩, .ok (block ct b (n + k))) := by
  induction left generalizing n prev out with
  | zero => exact fun k hk => absurd hk (Nat.not_lt_zero k)
  | succ left ih =>
    obtain ⟨hblock, hrest⟩ := blocks_inside hin
    obtain ⟨mixed, hmixed, hx, ⟨e', _, hloop, _⟩ | ⟨c, hE, hc⟩⟩ := cbcLoop_turn E key left out hblock hlen
    · cases hloop.symm.trans h
    · rw [cbcLoop_good hx hE hc] at h
      rw [cbcTrafficLoop_good hx hE hc]
      have hcipher : block ct b n = c := block_of_prefix hout hc (cbcLoop_ok hrest hc h).1
      rintro (_ | k) hk
      · exact ⟨mixed, ⟨hmixed, hprev ▸ hx, hcipher ▸ hE⟩, by simp [hcipher]⟩
      · have hout' : (out ++ c).length = (n + 1) * b := by rw [List.length_append, hout, hc, Nat.succ_mul]
        rw [List.getElem?_cons_succ, Nat.add_comm k 1, ← Nat.add_assoc]
        exact ih hrest hc hcipher.symm hout' h k (Nat.lt_of_succ_lt_succ hk)

/-! ## The function CBC -/

theorem cbc_eq_loop (hb : 1 ≤ iv.length) :
    cbc E key iv pt = cbcLoop E key (pad pt iv.length) iv.length (pt.length / iv.length + 1) 0 iv [] := by
  rw [cbc, pad_length_eq_mul pt hb, Nat.mul_div_cancel _ hb]

theorem cbcTraffic_eq_loop (hb : 1 ≤ iv.length) :
    cbcTraffic E key iv pt = cbcTrafficLoop E key (pad pt iv.length) iv.length (pt.length / iv.length + 1) 0 iv := by
  rw [cbcTraffic, pad_length_eq_mul pt hb, Nat.mul_div_cancel _ hb]

theorem pad_blocks_inside (pt : Bytes) (hb : 1 ≤ b) : (0 + (pt.length / b + 1)) * b ≤ (pad pt b).length := by
  rw [Nat.zero_add, pad_length_eq_mul pt hb]

/-- R175, and one request for each block (R172). -/
theorem cbc_ok_length (hb : 1 ≤ iv.length) (h : cbc E key iv pt = .ok ct) :
    ct.length = (pt.length / iv.length + 1) * iv.length ∧
    (cbcTraffic E key iv pt).length = pt.length / iv.length + 1 := by
  rw [cbc_eq_loop hb] at h
  rw [cbcTraffic_eq_loop hb]
  obtain ⟨_, hlen, htraffic⟩ := cbcLoop_ok (pad_blocks_inside pt hb) rfl h
  exact ⟨hlen.trans (Nat.zero_add _), htraffic⟩

/-- R160's equations for every block, tied to the requests and answers (R172). -/
theorem cbc_mixedBlock {k : Nat} (hb : 1 ≤ iv.length) (h : cbc E key iv pt = .ok ct)
    (hk : k < pt.length / iv.length + 1) :
    ∃ mixed, MixedBlock E key iv (pad pt iv.length) ct iv.length k mixed ∧
      (cbcTraffic E key iv pt)[k]? = some (⟨key, mixed⟩, .ok (block ct iv.length k)) := by
  rw [cbc_eq_loop hb] at h
  rw [cbcTraffic_eq_loop hb]
  simpa using cbcLoop_mixedBlock (iv := iv) (out := []) (pad_blocks_inside pt hb) rfl rfl (Nat.zero_mul _).symm h k hk

end Cbc

/-- Settles O47: each of the loop's turns appends one block. -/
theorem ciphertextLength : Obligations.CiphertextLength :=
  fun _ _ _ _ _ hb _ h => (cbc_ok_length hb h).1

/-- Settles O48: `MixedBlock` holds R160's equations, and the traffic of the same loop its requests and answers. -/
theorem ciphertextBlocksAreChained : Obligations.CiphertextBlocksAreChained := by
  intro E key iv pt ct hb _ h
  refine ⟨(cbc_ok_length hb h).2, fun i hi => ?_⟩
  obtain ⟨mixed, hmixed, htraffic⟩ := cbc_mixedBlock hb h hi
  exact ⟨mixed, hmixed.xor, hmixed.answer, htraffic⟩

/-- Settles O49: the loop goes on after every answer but the failing one. -/
theorem failedEncryptionReportsTheAnswer : Obligations.FailedEncryptionReportsTheAnswer := by
  intro E key iv pt e hb _ h
  rw [cbc_eq_loop hb] at h
  rw [cbcTraffic_eq_loop hb]
  exact cbcLoop_fail (pad_blocks_inside pt hb) rfl h

/-! ## Sensitivity -/

section Sensitivity

variable {key iv iv' padded padded' ct ct' mixed mixed' pt pt' : Bytes} {b k n : Nat}

theorem MixedBlock.cipherBlock_congr (h : MixedBlock E key iv padded ct b k mixed)
    (h' : MixedBlock E key iv' padded' ct' b k mixed') (hblock : block padded b k = block padded' b k)
    (hprev : previousBlock iv ct b k = previousBlock iv' ct' b k) : block ct b k = block ct' b k := by
  have hx := h.xor
  rw [hblock, hprev, h'.xor] at hx
  obtain rfl := Option.some.inj hx
  exact Answer.ok.inj (h.answer.symm.trans h'.answer)

/-- With `E(key, .)` injective, equal cipher blocks come of equal requests. -/
theorem MixedBlock.xor_eq_of_cipherBlock_eq (hinj : InjectiveOn E key b) (h : MixedBlock E key iv padded ct b k mixed)
    (h' : MixedBlock E key iv' padded' ct' b k mixed') (hcipher : block ct b k = block ct' b k) :
    xorBytes (block padded b k) (previousBlock iv ct b k) =
      xorBytes (block padded' b k) (previousBlock iv' ct' b k) := by
  rw [h.xor, h'.xor, hinj mixed mixed' h.length h'.length (by rw [h.answer, h'.answer, hcipher])]

theorem MixedBlock.cipherBlock_ne_of_block_ne (hinj : InjectiveOn E key b)
    (h : MixedBlock E key iv padded ct b k mixed) (h' : MixedBlock E key iv' padded' ct' b k mixed')
    (hblock : block padded b k ≠ block padded' b k) (hprev : previousBlock iv ct b k = previousBlock iv' ct' b k) :
    block ct b k ≠ block ct' b k := fun hcipher => hblock <| by
  have hx := h.xor_eq_of_cipherBlock_eq hinj h' hcipher
  rw [← hprev] at hx
  exact xorBytes_injective_left (xorBytes_eq_some.1 h.xor).1 hx

theorem MixedBlock.cipherBlock_ne_of_previous_ne (hinj : InjectiveOn E key b)
    (h : MixedBlock E key iv padded ct b k mixed) (h' : MixedBlock E key iv' padded' ct' b k mixed')
    (hblock : block padded b k = block padded' b k) (hprev : previousBlock iv ct b k ≠ previousBlock iv' ct' b k) :
    block ct b k ≠ block ct' b k := fun hcipher => hprev <| by
  have hx := h.xor_eq_of_cipherBlock_eq hinj h' hcipher
  rw [← hblock, xorBytes_comm _ (previousBlock iv ct b k), xorBytes_comm _ (previousBlock iv' ct' b k)] at hx
  exact xorBytes_injective_left (xorBytes_eq_some.1 h.xor).1.symm hx

/-- R160's equations for the first `n` blocks. -/
def Chained (E : Primitive) (key iv padded ct : Bytes) (b n : Nat) : Prop :=
  ∀ k, k < n → ∃ mixed, MixedBlock E key iv padded ct b k mixed

theorem cbc_chained (hb : 1 ≤ iv.length) (h : cbc E key iv pt = .ok ct) :
    Chained E key iv (pad pt iv.length) ct iv.length (pt.length / iv.length + 1) := fun _ hk =>
  (cbc_mixedBlock hb h hk).imp fun _ hm => hm.1

theorem Chained.mono {m : Nat} (h : Chained E key iv padded ct b n) (hm : m ≤ n) : Chained E key iv padded ct b m :=
  fun k hk => h k (hk.trans_le hm)

theorem previousBlock_congr (h : ∀ j, j < k → block ct b j = block ct' b j) :
    previousBlock iv ct b k = previousBlock iv ct' b k := by
  cases k with
  | zero => rfl
  | succ k => exact h k (Nat.lt_succ_self k)

/-- Under one key and IV, messages with the same first `n` blocks have ciphertexts with the same first `n` blocks. -/
theorem Chained.cipherBlocks_eq (h : Chained E key iv padded ct b n) (h' : Chained E key iv padded' ct' b n)
    (hblocks : ∀ k, k < n → block padded b k = block padded' b k) :
    ∀ k, k < n → block ct b k = block ct' b k := by
  intro k
  induction k using Nat.strong_induction_on with
  | _ k ih =>
    intro hk
    obtain ⟨mixed, hmixed⟩ := h k hk
    obtain ⟨mixed', hmixed'⟩ := h' k hk
    exact hmixed.cipherBlock_congr hmixed' (hblocks k hk) (previousBlock_congr fun j hj => ih j hj (hj.trans hk))

/-- Where a cipher block differs, so does every later one, as long as the messages agree there: each is mixed with the
one before. -/
theorem Chained.cipherBlocks_ne (hinj : InjectiveOn E key b) (h : Chained E key iv padded ct b n)
    (h' : Chained E key iv' padded' ct' b n) (hfirst : block ct b k ≠ block ct' b k)
    (hblocks : ∀ i, k < i → block padded b i = block padded' b i) :
    ∀ i, k ≤ i → i < n → block ct b i ≠ block ct' b i := by
  intro i hi
  induction i, hi using Nat.le_induction with
  | base => exact fun _ => hfirst
  | succ i hki ih =>
    intro hi
    obtain ⟨mixed, hmixed⟩ := h (i + 1) hi
    obtain ⟨mixed', hmixed'⟩ := h' (i + 1) hi
    exact hmixed.cipherBlock_ne_of_previous_ne hinj hmixed' (hblocks _ (Nat.lt_succ_of_le hki))
      (ih (Nat.lt_of_succ_lt hi))

/-- Messages of one length get the same padding. -/
theorem pad_getElem?_eq_iff {j : Nat} (hlen : pt.length = pt'.length) :
    (pad pt b)[j]? = (pad pt' b)[j]? ↔ pt[j]? = pt'[j]? := by
  have hpad : padLen pt' b = padLen pt b := by rw [padLen, padLen, hlen]
  rcases Nat.lt_or_ge j pt.length with hj | hj
  · rw [pad, pad, List.getElem?_append_left hj, List.getElem?_append_left (hlen ▸ hj)]
  · have hj' : pt'.length ≤ j := hlen ▸ hj
    rw [pad, pad, hpad, List.getElem?_append_right hj, List.getElem?_append_right hj', hlen]
    exact iff_of_true rfl ((List.getElem?_eq_none hj).trans (List.getElem?_eq_none hj').symm)

/-- Messages of one length have one padded block `k` when they agree at its indices. -/
theorem block_pad_eq_iff (hlen : pt.length = pt'.length) :
    block (pad pt b) b k = block (pad pt' b) b k ↔ ∀ j, j < b → pt[k * b + j]? = pt'[k * b + j]? := by
  rw [block_eq_iff]
  exact forall₂_congr fun _ _ => pad_getElem?_eq_iff hlen

/-- A byte of block `k` is not byte `t`, which is in block `t / b`. -/
theorem byte_ne_of_block_ne {t j : Nat} (hk : k ≠ t / b) (hj : j < b) : k * b + j ≠ t := by
  rintro rfl
  refine hk ?_
  rw [Nat.mul_comm, Nat.mul_add_div (Nat.zero_lt_of_lt hj), Nat.div_eq_of_lt hj, Nat.add_zero]

end Sensitivity

/-- Settles O50: the padded messages differ in block `t / b` alone, and the difference of its cipher block goes on into
each later one. -/
theorem chainingSensitivity : Obligations.ChainingSensitivity := by
  intro E key iv pt pt' ct ct' t hb _ hlen ht hdiff hsame h h'
  have hchain := cbc_chained hb h
  have hchain' := cbc_chained hb h'
  rw [← hlen] at hchain'
  have hblocks (k : Nat) (hk : k ≠ t / iv.length) :
      block (pad pt iv.length) iv.length k = block (pad pt' iv.length) iv.length k :=
    (block_pad_eq_iff hlen).2 fun j hj => hsame _ (byte_ne_of_block_ne hk hj)
  have hblock : block (pad pt iv.length) iv.length (t / iv.length) ≠
      block (pad pt' iv.length) iv.length (t / iv.length) := fun heq => by
    have hbyte := (block_pad_eq_iff hlen).1 heq (t % iv.length) (Nat.mod_lt _ hb)
    rw [Nat.div_add_mod'] at hbyte
    exact hdiff hbyte
  have hlt : t / iv.length < pt.length / iv.length + 1 := Nat.lt_succ_of_le (Nat.div_le_div_right ht.le)
  have hbefore := (hchain.mono hlt.le).cipherBlocks_eq (hchain'.mono hlt.le) fun k hk => hblocks k hk.ne
  refine ⟨hbefore, fun hinj => ?_⟩
  obtain ⟨mixed, hmixed⟩ := hchain _ hlt
  obtain ⟨mixed', hmixed'⟩ := hchain' _ hlt
  exact hchain.cipherBlocks_ne hinj hchain'
    (hmixed.cipherBlock_ne_of_block_ne hinj hmixed' hblock (previousBlock_congr hbefore)) fun k hk => hblocks k hk.ne'

/-- Settles O51: the IVs are what the first blocks are mixed with, and the messages are one. -/
theorem ivSensitivity : Obligations.IvSensitivity := by
  intro E key iv iv' pt ct ct' hb _ hlen hne h h' hinj i hi
  have hchain := cbc_chained hb h
  have hchain' := cbc_chained (hlen ▸ hb) h'
  rw [← hlen] at hchain'
  obtain ⟨mixed, hmixed⟩ := hchain 0 (Nat.succ_pos _)
  obtain ⟨mixed', hmixed'⟩ := hchain' 0 (Nat.succ_pos _)
  have hfirst := hmixed.cipherBlock_ne_of_previous_ne hinj hmixed' rfl hne
  exact hchain.cipherBlocks_ne hinj hchain' hfirst (fun _ _ => rfl) i (Nat.zero_le i) hi

/-! ## The operation of ENC -/

section Operation

variable {rest later : List HostMove} {ds : List Delay} {events : List Event}

theorem idleHidden_of_idle (hi : HiddenIdle s) (hp : s.phase = .ready) : idleHidden s = s := by
  obtain ⟨hpbuf, hidx, hnblk, hprev, hmix, hreq⟩ := hi
  cases s
  simp_all [idleHidden]

/-- From READY, where the hidden registers are idle already, the end of an operation shows in OUT and the response. -/
theorem endOperation_ok_of_idle (hi : HiddenIdle s) (hp : s.phase = .ready) (ct : Bytes) :
    endOperation (.ok ct) (s.progressed later ds events) =
      { s with out := ct, host := later, delays := ds, trace := s.trace ++ events ++ [.response 0x0000] } := by
  have hidle : idleHidden { s.progressed later ds events with out := ct } =
      { s.progressed later ds events with out := ct } := idleHidden_of_idle (hi.congr rfl) hp
  rw [endOperation, endOk, hidle]
  rfl

/-- The same with `end_fail`, which shows in CAUSE also. -/
theorem endOperation_fail_of_idle (hi : HiddenIdle s) (hp : s.phase = .ready) (e : PrimError) :
    endOperation (.fail e) (s.progressed later ds events) =
      { s with
        out := [], cause := primCause e, host := later, delays := ds
        trace := s.trace ++ events ++ [.response (responseWord true false (primCause e) 0#8)] } := by
  have hidle : idleHidden (s.progressed later ds events) = s.progressed later ds events :=
    idleHidden_of_idle (hi.congr rfl) hp
  rw [endOperation, endFail, hidle]
  rfl

theorem WellKept.iv_pos (hk : WellKept s) (hp : s.phase ≠ .unconf) : 1 ≤ s.iv.length := by
  rw [hk.iv]
  exact Nat.pos_of_ne_zero fun hz => hp (hk.unconf.2 (BitVec.eq_of_toNat_eq hz))

/-- Settles O53: `enc_reached` runs to the end of the operation, whose two forms give R171's three results. -/
theorem operationComputesCbc : Obligations.OperationComputesCbc := by
  intro E s rest hk hp hh hn hd traffic
  have hidle : HiddenIdle { s with msg := [] } := (hk.quiescent (by rw [hp]; rfl)).congr rfl
  obtain ⟨later, hl, n, hrun⟩ := enc_reached (E := E) hk hp hh hn hd
  refine ⟨fun ct hcbc => ⟨?length, n, later, hl, ?ok⟩, fun hcbc => ⟨n, later, hl, ?key⟩,
    fun hcbc => ⟨n, later, hl, ?blockSize⟩⟩
  case length => rw [← hk.iv, (cbc_ok_length (hk.iv_pos (by simp [hp])) hcbc).2]
  case ok => rw [hrun, hcbc, endOperation_ok_of_idle hidle hp, ← List.append_assoc]; rfl
  case key => rw [hrun, hcbc, endOperation_fail_of_idle hidle hp, ← List.append_assoc]; rfl
  case blockSize => rw [hrun, hcbc, endOperation_fail_of_idle hidle hp, ← List.append_assoc]; rfl

/-- A run that takes the host's next move takes a step. -/
theorem exists_succ_of_moveTaken {n : Nat} {m : HostMove} (h : runWith E n s = .next t) (hh : s.host = m :: rest)
    (hl : AfterIdles rest t.host) : ∃ k, n = k + 1 := by
  cases n with
  | zero =>
    obtain rfl : s = t := Host.Outcome.next.inj h
    obtain ⟨k, hk⟩ := hl
    have hlen := congrArg List.length hk
    rw [hh, List.length_append, List.length_cons] at hlen
    omega
  | succ n => exact ⟨n, rfl⟩

/-- The response word to the ENC of an operation that ends with `a` (R166, R167). -/
def endResponse : Answer → Word
  | .ok _ => 0x0000
  | .fail e => responseWord true false (primCause e) 0#8

theorem endOperation_getLast? (a : Answer) (s : State) :
    (endOperation a s).trace.getLast? = some (.response (endResponse a)) := by
  cases a <;> exact List.getLast?_concat

theorem endOperation_out_eq (a : Answer) (s t : State) : (endOperation a s).out = (endOperation a t).out := by
  cases a <;> rfl

theorem endOperation_phase (a : Answer) (s : State) : (endOperation a s).phase = .ready := by
  cases a <;> rfl

theorem endOperation_host (a : Answer) (s : State) : (endOperation a s).host = s.host := by
  cases a <;> rfl

/-- From READY an ENC runs to the end of its operation, which shows what CBC gives of KEY, IV and MSG. -/
theorem enc_ends (hk : WellKept s) (hp : s.phase = .ready) (hh : s.host = .send 0x5000 :: rest)
    (hn : NoResetAhead rest) (hd : Delay.never ∉ s.delays) :
    ∃ n u, runWith E (n + 1) s = .next (endOperation (cbc E s.key s.iv s.msg) u) ∧ AfterIdles rest u.host := by
  obtain ⟨later, hl, n, hrun⟩ := enc_reached (E := E) hk hp hh hn hd
  obtain ⟨k, rfl⟩ := exists_succ_of_moveTaken hrun hh (by rw [endOperation_host]; exact hl)
  exact ⟨k, _, hrun, hl⟩

/-- Settles O56: both operations end by what CBC gives of the same key, IV and message. -/
theorem ciphertextDependsOnKeyIvAndMessage : Obligations.CiphertextDependsOnKeyIvAndMessage := by
  intro E s t rest rest' hk hk' hp hp' hh hh' hn hn' hd hd' hkey hiv hmsg
  obtain ⟨n, u, hrun, hl⟩ := enc_ends (E := E) hk hp hh hn hd
  obtain ⟨m, v, hrun', hl'⟩ := enc_ends (E := E) hk' hp' hh' hn' hd'
  rw [← hkey, ← hiv, ← hmsg] at hrun'
  exact ⟨n, m, _, _, hrun, hrun', endOperation_phase _ _, endOperation_phase _ _,
    by rwa [endOperation_host], by rwa [endOperation_host], endOperation_out_eq _ _ _,
    by rw [endOperation_getLast?, endOperation_getLast?], _, endOperation_getLast? _ _⟩

end Operation

end Sys2Proof.Machine

/-! PROOFS. Status and control (spec/44_status_and_control.md): NOP, RDS and CLR (R200 to R202). -/

namespace Sys2Proof.Machine

variable {s : State} {sel mask : Byte}

/-! ## NOP -/

/-- Settles O6: NOP's meaning is the response `0x0000` alone. -/
theorem nopOnlyResponds : Obligations.NopOnlyResponds :=
  ⟨decode_or (i := .nop) rfl, fun _ => execNop_next.2 rfl⟩

/-! ## RDS -/

/-- The reserved selectors are 3 and above (R65). -/
theorem selectRegister_eq_none : selectRegister sel = none ↔ 3 ≤ sel.toNat := by
  unfold selectRegister
  split
  next h => simp [h]
  next h => simp [h]
  next h => simp [h]
  next h0 h1 h2 => exact iff_of_true rfl (by simp only [imp_false] at h0 h1 h2; omega)

/-- RDS sends the selected register in DATA and changes nothing (R201). -/
theorem exec_rds {r : StatusRegister} (h : selectRegister sel = some r) :
    exec (.rds sel) s = .next { s with trace := s.trace ++ [.response ((readRegister s r).setWidth 16)] } := by
  rw [← responseWord_data]
  exact execRds_next.2 (.inr ⟨r, h, rfl⟩)

/-- A field of `w` bits below a flag adds to the flag's weight `2 ^ w`. -/
theorem ofBool_append_toNat {w : Nat} (b : Bool) (x : BitVec w) :
    (BitVec.ofBool b ++ x).toNat = (if b then 2 ^ w else 0) + x.toNat := by
  rw [BitVec.toNat_append, ← Nat.shiftLeft_add_eq_or_of_lt x.isLt]
  cases b <;> simp [Nat.shiftLeft_eq]

/-- STATUS as a number: ERR weighs 16, OUTV 8, and STATE's code stands below them (R34). -/
theorem status_toNat (s : State) :
    (status s).toNat =
      (if s.cause = .none then 0 else 16) + (if s.out = [] then 0 else 8) + s.phase.code.toNat := by
  have herr : (if err s then 16 else 0) = if s.cause = .none then 0 else 16 := by
    simp [err]
  have houtv : (if outv s then 8 else 0) = if s.out = [] then 0 else 8 := by
    simp [outv, List.length_pos_iff]
  calc (status s).toNat
      = (if err s then 16 else 0) + ((if outv s then 8 else 0) + s.phase.code.toNat) := by
        rw [status, BitVec.toNat_append, BitVec.toNat_ofNat, Nat.zero_mod, Nat.zero_shiftLeft, Nat.zero_or,
          ofBool_append_toNat, ofBool_append_toNat]
        rfl
    _ = (if s.cause = .none then 0 else 16) + (if s.out = [] then 0 else 8) + s.phase.code.toNat := by
        rw [herr, houtv, Nat.add_assoc]

/-- Settles O13: the selector is one of the three registers' or reserved. -/
theorem rdsReadsTheSelectedRegister : Obligations.RdsReadsTheSelectedRegister := by
  refine ⟨fun sel hle => decode_or (i := .rds sel) (decide_eq_true hle), fun s => ⟨?_, ?_, ?_, fun sel hge => ?_⟩⟩
  · refine ⟨(status s).setWidth 16, ?_, exec_rds (r := .status) rfl⟩
    rw [BitVec.toNat_setWidth_of_le (by decide), status_toNat]
  · exact exec_rds (r := .bsz) rfl
  · have hcause : (s.cause.code.zeroExtend 8).setWidth 16 = s.cause.code.setWidth 16 :=
      BitVec.setWidth_setWidth (by decide)
    rw [← hcause]
    exact exec_rds (r := .cause) rfl
  · exact execRds_next.2 (.inl ⟨selectRegister_eq_none.2 hge, rfl⟩)

/-! ## CLR -/

/-- A mask below `0x40` selects by its bits 0 to 5 (R202). -/
theorem clearMask_of_lt (h : mask.toNat < 0x40) :
    clearMask mask = some
      { keys := mask.getLsbD 0, ivs := mask.getLsbD 1, msg := mask.getLsbD 2,
        out := mask.getLsbD 3, cause := mask.getLsbD 4, encryptor := mask.getLsbD 5 } :=
  if_pos (reservedBits_eq_zero.2 h)

theorem clearMask_of_ge (h : 0x40 ≤ mask.toNat) : clearMask mask = none :=
  if_neg fun hz => absurd (reservedBits_eq_zero.1 hz) (Nat.not_lt.2 h)

/-- Bit 5 of the mask, an item at a time. -/
theorem clearEncryptor_eq (m : ClearMask) (s : State) :
    clearEncryptor m s = { s with
      key := if m.encryptor then [] else s.key
      iv := if m.encryptor then [] else s.iv
      bsz := if m.encryptor then 0 else s.bsz
      phase := if m.encryptor then .unconf else s.phase } := by
  cases he : m.encryptor <;> simp [clearEncryptor, he]

/-- Settles O14: a mask below `0x40` clears its six items independently, and any other is R224's check 5. -/
theorem clrClearsTheSelectedItems : Obligations.ClrClearsTheSelectedItems := by
  refine ⟨fun m hlt => ?_, fun m s => ⟨fun hlt => ?_, fun hge => ?_⟩⟩
  · exact decode_or (i := .clr m) (beq_iff_eq.2 (reservedBits_eq_zero.2 hlt))
  · refine execClr_next.2 (.inr ⟨_, clearMask_of_lt hlt, ?_⟩)
    rw [clearEncryptor_eq]
    rfl
  · exact execClr_next.2 (.inl ⟨clearMask_of_ge hge, rfl⟩)

/-- Settles O15: the mask `0x3F` clears every piece but the hidden registers, which are idle where CLR can be accepted
(R39, R40 item 5). -/
theorem clearingEverythingIsLikeReset : Obligations.ClearingEverythingIsLikeReset := by
  intro s hk hb
  obtain ⟨hpbuf, hidx, hnblk, hprev, hmix, hreq⟩ := hk.quiescent hb
  obtain ⟨hclear, _⟩ := clrClearsTheSelectedItems.2 0x3F s
  rw [hclear (by decide), hpbuf, hidx, hnblk, hprev, hmix, hreq]
  rfl

end Sys2Proof.Machine

/-! PROOFS. Exceptions (spec/60_exceptions.md): the illegal word (R223), what a command that faults changes (R226), and the
quiescent chainer to which the host sends nothing (R237). -/

namespace Sys2Proof.Machine

variable {E : Primitive} {s s' : State} {i : Instr} {w r : Word}

/-! ## A command faults or succeeds -/

/-- Bit 15 of a response word is ERRF (R95). -/
theorem responseWord_errf (errf empty : Bool) (c : Cause) (d : Byte) :
    (responseWord errf empty c d).getLsbD 15 = errf := by
  rw [responseWord, BitVec.getLsbD_append]
  simp

/-- What a command that does not fault adds to the record: a response with ERRF = 0, or nothing yet, where an operation
starts (R162). -/
def AnswersNoFault (s s' : State) : Prop :=
  (∃ empty d, s'.trace = s.trace ++ [.response (responseWord false empty .none d)]) ∨ s'.trace = s.trace

theorem AnswersNoFault.errf (h : AnswersNoFault s s') (ht : s'.trace = s.trace ++ [.response r]) :
    r.getLsbD 15 = false := by
  rcases h with ⟨empty, d, hd⟩ | hnone
  · obtain rfl : r = responseWord false empty .none d := by simpa using ht.symm.trans hd
    exact responseWord_errf false empty .none d
  · simp [hnone] at ht

theorem answersNoFault_respond {t : State} (empty : Bool) (d : Byte) (h : t.trace = s.trace) :
    AnswersNoFault s (respond false empty .none d t) :=
  .inl ⟨empty, d, by rw [respond_trace, h]⟩

theorem answersNoFault_done {t : State} (h : t.trace = s.trace) : AnswersNoFault s (respondDone t) :=
  answersNoFault_respond false 0#8 h

/-- A command is a command fault (R226) with a cause of its own, or answers no fault. -/
theorem exec_fault_or_answersNoFault (h : exec i s = .next s') :
    (∃ c, c ≠ .none ∧ s' = commandFault c s) ∨ AnswersNoFault s s' := by
  cases i <;> simp only [exec] at h
  case nop => rw [execNop_next.1 h]; exact .inr (answersNoFault_done rfl)
  case keyb b =>
    rcases execKeyb_next.1 h with ⟨_, hs⟩ | ⟨_, rfl⟩
    · exact .inl ⟨.capacity, by decide, hs⟩
    · exact .inr (answersNoFault_done rfl)
  case ivb b =>
    rcases execIvb_next.1 h with ⟨_, hs⟩ | ⟨_, rfl⟩
    · exact .inl ⟨.capacity, by decide, hs⟩
    · exact .inr (answersNoFault_done rfl)
  case init =>
    rcases execInit_next.1 h with ⟨_, hs⟩ | ⟨_, _, rfl⟩
    · exact .inl ⟨.invalidBlockSize, by decide, hs⟩
    · exact .inr (answersNoFault_done rfl)
  case ptb b =>
    rcases execPtb_next.1 h with ⟨_, hs⟩ | ⟨_, rfl⟩
    · exact .inl ⟨.capacity, by decide, hs⟩
    · exact .inr (answersNoFault_done rfl)
  case enc =>
    rcases execEnc_next.1 h with ⟨_, hs⟩ | ⟨_, rfl⟩
    · exact .inl ⟨.notConfigured, by decide, hs⟩
    · exact .inr (.inr rfl)
  case rdb =>
    rcases execRdb_next.1 h with ⟨_, rfl⟩ | ⟨d, rest, _, rfl⟩
    · exact .inr (answersNoFault_respond true 0#8 rfl)
    · exact .inr (answersNoFault_respond false d rfl)
  case rds sel =>
    rcases execRds_next.1 h with ⟨_, hs⟩ | ⟨reg, _, rfl⟩
    · exact .inl ⟨.illegalCommand, by decide, hs⟩
    · exact .inr (answersNoFault_respond false (readRegister s reg) rfl)
  case clr mask =>
    rcases execClr_next.1 h with ⟨_, hs⟩ | ⟨m, _, rfl⟩
    · exact .inl ⟨.illegalCommand, by decide, hs⟩
    · exact .inr (answersNoFault_done (by simp))

/-! ## An accepted word that faults -/

theorem acceptWord_error {e : DecodeError} (h : decode w = .error e) :
    acceptWord w s = .next (commandFault .illegalCommand (s.record (.command w))) := by
  unfold acceptWord; rw [h]

/-- An accepted word answered with ERRF = 1 is a command fault, illegal or legal. -/
theorem acceptWord_eq_commandFault (h : acceptWord w s = .next s')
    (ht : s'.trace = s.trace ++ [.command w, .response r]) (hr : r.getLsbD 15 = true) :
    ∃ c, c ≠ .none ∧ s' = commandFault c (s.record (.command w)) := by
  rcases acceptWord_next h with ⟨_, hs⟩ | ⟨i, _, hx⟩
  · exact ⟨.illegalCommand, by decide, hs⟩
  · rcases exec_fault_or_answersNoFault hx with hfault | hno
    · exact hfault
    · have hzero : r.getLsbD 15 = false := hno.errf (by simpa using ht)
      exact absurd (hzero.symm.trans hr) Bool.false_ne_true

/-- Settles O33: the step is a command fault, which writes CAUSE and responds with its code. -/
theorem commandFaultChangesOnlyCause : Obligations.CommandFaultChangesOnlyCause := by
  intro E s s' w r rest hb hh h ht hr
  rw [stepWith_accept hb hh] at h
  obtain ⟨c, hc, rfl⟩ := acceptWord_eq_commandFault h ht hr
  have hword : r = responseWord true false c 0#8 := by simpa using ht.symm
  refine ⟨c, hc, hword.trans (responseWord_fault c), ?_⟩
  rw [← ht]
  rfl

/-- Settles O23: the word is accepted, and refused by the decoder. -/
theorem illegalWordOnlyWritesCause : Obligations.IllegalWordOnlyWritesCause := by
  intro s w rest e hb hh hd
  calc step s = acceptWord w { s with host := rest } := stepWith_accept hb hh
    _ = .next (commandFault .illegalCommand (State.record { s with host := rest } (.command w))) := acceptWord_error hd
    _ = .next { s with
          host := rest, cause := .illegalCommand, trace := s.trace ++ [.command w, .response 0x8300] } := by
        simp [commandFault, respond, State.record]

/-! ## No move of the host -/

theorem stepWith_noMove (h : s.host = []) : stepWith E s = ownStep E s := by
  unfold stepWith; rw [h]

/-- Settles O27: the step is the chainer's own, and a quiescent chainer has none. -/
theorem quiescentMachineKeepsItsState : Obligations.QuiescentMachineKeepsItsState :=
  fun _ hb hh => (stepWith_noMove hh).trans (ownStep_quiescent hb)

end Sys2Proof.Machine

/-! PROOFS. Reset and hazards (spec/70_reset_and_hazards.md): reset (R250 to R252), the silent primitive (R258), CAUSE
(R260), the common start (R256), the length of an operation (R263) and progress (R265, R266). -/

namespace Sys2Proof.Machine

variable {E : Primitive} {s s' t u : State} {i : Instr} {w r : Word} {rest : List HostMove}

/-! ## Progress -/

/-- The outcome is a next state, since it is no fault and no refusal, and the next state is well-kept too. -/
theorem WellKept.stepWith_next (hk : WellKept s) : ∃ s', stepWith E s = .next s' ∧ WellKept s' := by
  cases h : stepWith E s with
  | next s' => exact ⟨s', rfl, stepWith_wellKept hk h⟩
  | fault f => exact absurd h (hk.stepWith_ne_fault f)
  | refused r => exact absurd h (stepWith_ne_refused r)

/-- Settles O41: the machine's step is `stepWith` of its own primitive. -/
theorem nothingStopsAWellKeptMachine : Obligations.NothingStopsAWellKeptMachine :=
  fun _ hk => hk.stepWith_next

/-! ## Reset -/

/-- Reset is looked at before STATE is (R250). -/
theorem stepWith_reset (h : s.host = .reset :: rest) : stepWith E s = .next (applyReset { s with host := rest }) := by
  unfold stepWith; rw [h]

/-- Only in CIPHER is there a request to withdraw (R252, log 5). -/
theorem delaysAfterReset_eq (s : State) :
    delaysAfterReset s = if s.phase = .cipher then s.delays.tail else s.delays := by
  unfold delaysAfterReset
  cases s.phase <;> rfl

/-- Settles O24: `applyReset` is R41's state but for the model's own fields. -/
theorem resetStepResetsEverything : Obligations.ResetStepResetsEverything := by
  intro E s rest h
  rw [stepWith_reset h, applyReset, delaysAfterReset_eq]
  rfl

/-- A status register that reads 0 is answered `0x0000` (R201). -/
theorem exec_rds_zero {sel : Byte} {reg : StatusRegister} (hsel : selectRegister sel = some reg)
    (hzero : readRegister s reg = 0) :
    exec (.rds sel) s = .next { s with trace := s.trace ++ [.response 0x0000] } := by
  rw [exec_rds hsel, hzero]; rfl

/-- Settles O26: the three registers read 0 at reset, OUT and IVS are empty, and STATE is UNCONF. -/
theorem commandsAfterReset : Obligations.CommandsAfterReset := by
  refine ⟨exec_rds_zero (reg := .status) rfl ?status, exec_rds_zero (reg := .bsz) rfl rfl,
    exec_rds_zero (reg := .cause) rfl rfl, ?rdb, ?enc, ?init⟩
  case status => decide
  case rdb => exact (execRdb_next (s := State.reset)).2 (.inl ⟨rfl, rfl⟩)
  case enc => exact execEnc_next.2 (.inl ⟨rfl, rfl⟩)
  case init => exact execInit_next.2 (.inl ⟨rfl, rfl⟩)

/-! ## The silent primitive -/

/-- In CIPHER, with no reset or idle move first, the step is the primitive's (R70). -/
theorem stepWith_cipher (hp : s.phase = .cipher) (hh : HostWaits s.host) : stepWith E s = primitiveStep E s :=
  (stepWith_waiting (by rw [hp]; rfl) hh).trans (ownStep_cipher hp)

theorem primitiveStep_never {ds : List Delay} (h : s.delays = .never :: ds) : primitiveStep E s = .next s := by
  unfold primitiveStep; rw [h]

theorem primitiveStep_later {ds : List Delay} {n : Nat} (h : s.delays = .after (n + 1) :: ds) :
    primitiveStep E s = .next { s with delays := .after n :: ds } := by
  unfold primitiveStep; rw [h]

theorem primitiveStep_now {ds : List Delay} (h : s.delays = .after 0 :: ds) :
    primitiveStep E s = uRsp E { s with delays := ds } := by
  unfold primitiveStep; rw [h]

/-- Settles O21: the primitive's step, by its next delay. -/
theorem silentPrimitiveKeepsTheChainerWaiting : Obligations.SilentPrimitiveKeepsTheChainerWaiting :=
  fun _ _ hp hh _ => ⟨fun hd => (stepWith_cipher hp hh).trans (primitiveStep_never hd),
    fun _ hd => (stepWith_cipher hp hh).trans (primitiveStep_later hd),
    fun hd => (stepWith_cipher hp hh).trans (primitiveStep_now hd)⟩

/-! ## CAUSE -/

/-- From `s` to `s'` the last that is sent is a fault response, and CAUSE holds its code (R226, R167). -/
def EndsInFault (s s' : State) : Prop :=
  s'.cause ≠ .none ∧ ∃ more, s'.trace = s.trace ++ more ++ [.response (responseWord true false s'.cause 0#8)]

/-- From `s` to `s'` no fault response is sent. -/
def SendsNoFault (s s' : State) : Prop :=
  ∃ added, s'.trace = s.trace ++ added ∧ ∀ r, .response r ∈ added → r.getLsbD 15 = false

/-- A step sends a fault, or none and keeps CAUSE. -/
def FaultsOrKeepsCause (s s' : State) : Prop :=
  EndsInFault s s' ∨ (SendsNoFault s s' ∧ s'.cause = s.cause)

theorem sendsNoFault_of_offHost {added : List Event} (h : s'.trace = s.trace ++ added) (hoff : OffHostChannels added) :
    SendsNoFault s s' :=
  ⟨added, h, fun _ hr => by cases (hoff _ hr).2⟩

theorem faultsOrKeepsCause_of_silent (ht : s'.trace = s.trace) (hc : s'.cause = s.cause) : FaultsOrKeepsCause s s' :=
  .inr ⟨⟨[], by rw [ht, List.append_nil], by simp⟩, hc⟩

/-- What a command answers without a fault follows its word in the record. -/
theorem AnswersNoFault.sendsNoFault (h : AnswersNoFault (s.record (.command w)) s') : SendsNoFault s s' := by
  rcases h with ⟨empty, d, ht⟩ | ht
  · refine ⟨[.command w, .response (responseWord false empty .none d)], by simpa using ht, fun r hr => ?_⟩
    obtain rfl : r = responseWord false empty .none d := by simpa using hr
    exact responseWord_errf false empty .none d
  · exact ⟨[.command w], ht, by simp⟩

theorem AnswersNoFault.ne_commandFault {c : Cause} (h : AnswersNoFault s s') : s' ≠ commandFault c s := by
  rintro rfl
  have hzero := h.errf (commandFault_trace c s)
  rw [responseWord_fault_errf] at hzero
  cases hzero

theorem endsInFault_commandFault {c : Cause} (hc : c ≠ .none) (e : Event) (s : State) :
    EndsInFault s (commandFault c (s.record e)) := ⟨hc, [e], rfl⟩

/-- A legal mask's bit 4 selects CAUSE (R202). -/
theorem clearMask_cause {mask : Byte} {m : ClearMask} (hm : clearMask mask = some m) (hc : m.cause = true) :
    mask.toNat < 0x40 ∧ mask.getLsbD 4 = true := by
  rcases Nat.lt_or_ge mask.toNat 0x40 with hlt | hge
  · rw [clearMask_of_lt hlt] at hm
    cases hm
    exact ⟨hlt, hc⟩
  · rw [clearMask_of_ge hge] at hm
    cases hm

/-- A command is a command fault, or keeps CAUSE, or is CLR with bit 4 (R260). -/
theorem exec_cause (h : exec i s = .next s') : (∃ c, s' = commandFault c s) ∨ s'.cause = s.cause ∨
    (s'.cause = .none ∧ ∃ mask : Byte, mask.toNat < 0x40 ∧ mask.getLsbD 4 = true ∧ i = .clr mask) := by
  cases i <;> simp only [exec] at h
  case nop => rw [execNop_next.1 h]; exact .inr (.inl rfl)
  case keyb b => exact (execKeyb_next.1 h).imp (fun ⟨_, hs⟩ => ⟨_, hs⟩) fun ⟨_, hs⟩ => .inl (hs ▸ rfl)
  case ivb b => exact (execIvb_next.1 h).imp (fun ⟨_, hs⟩ => ⟨_, hs⟩) fun ⟨_, hs⟩ => .inl (hs ▸ rfl)
  case init => exact (execInit_next.1 h).imp (fun ⟨_, hs⟩ => ⟨_, hs⟩) fun ⟨_, _, hs⟩ => .inl (hs ▸ rfl)
  case ptb b => exact (execPtb_next.1 h).imp (fun ⟨_, hs⟩ => ⟨_, hs⟩) fun ⟨_, hs⟩ => .inl (hs ▸ rfl)
  case enc => exact (execEnc_next.1 h).imp (fun ⟨_, hs⟩ => ⟨_, hs⟩) fun ⟨_, hs⟩ => .inl (hs ▸ rfl)
  case rdb => rcases execRdb_next.1 h with ⟨_, rfl⟩ | ⟨_, _, _, rfl⟩ <;> exact .inr (.inl rfl)
  case rds sel => exact (execRds_next.1 h).imp (fun ⟨_, hs⟩ => ⟨_, hs⟩) fun ⟨_, _, hs⟩ => .inl (hs ▸ rfl)
  case clr mask =>
    rcases execClr_next.1 h with ⟨_, hs⟩ | ⟨m, hm, rfl⟩
    · exact .inl ⟨_, hs⟩
    · right
      by_cases hc : m.cause = true
      · obtain ⟨hlt, hbit⟩ := clearMask_cause hm hc
        exact .inr ⟨by simp [hc], mask, hlt, hbit, rfl⟩
      · exact .inl (by simp [hc])

/-- An accepted word sends a fault, or none and keeps CAUSE, or it is CLR with bit 4 (R260). -/
theorem acceptWord_cause (h : acceptWord w s = .next s') : FaultsOrKeepsCause s s' ∨
    (SendsNoFault s s' ∧ s'.cause = .none ∧
      ∃ mask : Byte, mask.toNat < 0x40 ∧ mask.getLsbD 4 = true ∧ w = encode (.clr mask)) := by
  rcases acceptWord_next h with ⟨_, rfl⟩ | ⟨i, hi, hx⟩
  · exact .inl (.inl (endsInFault_commandFault (by decide) _ _))
  · obtain rfl := encode_of_decode hi
    rcases exec_fault_or_answersNoFault hx with ⟨c, hc, rfl⟩ | hno
    · exact .inl (.inl (endsInFault_commandFault hc _ _))
    · rcases exec_cause hx with ⟨c, rfl⟩ | hkeep | ⟨hclear, mask, hlt, hbit, rfl⟩
      · exact absurd rfl hno.ne_commandFault
      · exact .inl (.inr ⟨hno.sendsNoFault, hkeep⟩)
      · exact .inr ⟨hno.sendsNoFault, hclear, mask, hlt, hbit, rfl⟩

theorem endsInFault_endFail (e : PrimError) (s : State) : EndsInFault s (endFail e s) :=
  ⟨primCause_ne_none e, [], by simp⟩

/-- U_RSP writes CAUSE with `end_fail` alone (R163 to R167). -/
theorem uRsp_cause (h : uRsp E s = .next s') : FaultsOrKeepsCause s s' := by
  obtain ⟨r, _, ⟨e, rfl⟩ | ⟨c, _, _, ⟨_, rfl⟩ | ⟨_, rfl⟩⟩⟩ := uRsp_cases h
  · exact .inl ⟨primCause_ne_none e, [.answer (E r.key r.block)], rfl⟩
  · exact .inr ⟨⟨[.answer (.ok c), .response 0x0000], by simp, by simp⟩, rfl⟩
  · exact .inr ⟨sendsNoFault_of_offHost rfl (offHostChannels_answer (.ok c)), rfl⟩

theorem ownStep_cause (h : ownStep E s = .next s') : FaultsOrKeepsCause s s' := by
  rcases ownStep_next h with ⟨_, rfl⟩ | ⟨_, hu⟩ | ⟨_, hx⟩ | ⟨_, hr⟩
  · exact faultsOrKeepsCause_of_silent rfl rfl
  · obtain ⟨_, rfl⟩ := uPad_next.1 hu
    exact faultsOrKeepsCause_of_silent rfl rfl
  · obtain ⟨_, _, _, _, ⟨_, rfl⟩ | ⟨_, _, rfl⟩⟩ := uXor_next.1 hx
    · exact .inl (endsInFault_endFail _ _)
    · exact .inr ⟨sendsNoFault_of_offHost rfl (offHostChannels_request _), rfl⟩
  · rcases primitiveStep_next hr with ⟨_, rfl⟩ | ⟨_, hu⟩
    · exact faultsOrKeepsCause_of_silent rfl rfl
    · exact (uRsp_cause hu :)

/-- CAUSE is written 0 by reset, or by a legal CLR with bit 4 from a quiescent STATE (R202, R250). -/
def ClearsCause (s s' : State) : Prop :=
  s'.cause = .none ∧ ((∃ rest, s.host = .reset :: rest) ∨
    (s.phase.busy = false ∧
      ∃ m : Byte, m.toNat < 0x40 ∧ m.getLsbD 4 = true ∧ s.host = .send (encode (.clr m)) :: s'.host))

/-- One step sends a fault whose code it leaves in CAUSE, or sends none and keeps CAUSE or clears it. -/
theorem stepWith_cause (h : stepWith E s = .next s') :
    EndsInFault s s' ∨ (SendsNoFault s s' ∧ (s'.cause = s.cause ∨ ClearsCause s s')) := by
  rcases stepWith_next h with ⟨rest, hh, rfl⟩ | ⟨w, rest, hh, hb, hw⟩ | ⟨moves, ho, _⟩
  · exact .inr ⟨⟨[.reset], rfl, by simp⟩, .inr ⟨rfl, .inl ⟨rest, hh⟩⟩⟩
  · have hhost : s.host = .send w :: s'.host := by rw [hh, acceptWord_host hw]
    rcases acceptWord_cause hw with hkept | ⟨hno, hclear, m, hlt, hbit, rfl⟩
    · exact hkept.imp_right fun ⟨hno, hkeep⟩ => ⟨hno, .inl hkeep⟩
    · exact .inr ⟨hno, .inr ⟨hclear, .inr ⟨hb, m, hlt, hbit, hhost⟩⟩⟩
  · exact (ownStep_cause ho).imp_right fun ⟨hno, hkeep⟩ => ⟨hno, .inl hkeep⟩

/-- A fault response that is the last event of a step carries the code that CAUSE now holds. -/
theorem code_of_faultResponse {more : List Event} (h : EndsInFault s s' ∨ SendsNoFault s s')
    (ht : s'.trace = s.trace ++ more ++ [.response r]) (hr : r.getLsbD 15 = true) :
    s'.cause ≠ .none ∧ r = 0x8000 ||| (s'.cause.code.setWidth 16 <<< 8) := by
  rcases h with ⟨hc, before, ht'⟩ | ⟨added, ht', hno⟩
  · obtain ⟨_, hlast⟩ := List.append_inj' (ht.symm.trans ht') rfl
    obtain rfl : r = responseWord true false s'.cause 0#8 := by simpa using hlast
    exact ⟨hc, responseWord_fault _⟩
  · have hadded : more ++ [.response r] = added := by simpa using ht.symm.trans ht'
    have hzero : r.getLsbD 15 = false := hno r (by simp [← hadded])
    exact absurd (hzero.symm.trans hr) Bool.false_ne_true

/-- Settles O34: the cases of `stepWith_cause`, and what the last response of each of them is. -/
theorem causeIsStickyUntilCleared : Obligations.CauseIsStickyUntilCleared := by
  intro E s s' h
  have hstep := stepWith_cause h
  refine ⟨?_, fun more r ht hr => code_of_faultResponse (hstep.imp_right And.left) ht hr⟩
  rcases hstep with ⟨hc, more, ht⟩ | ⟨_, hkeep | ⟨hc, hreset | hclr⟩⟩
  · exact .inr (.inl ⟨hc, more, _, ht, responseWord_fault_errf _⟩)
  · exact .inl hkeep
  · exact .inr (.inr (.inl ⟨hc, hreset⟩))
  · exact .inr (.inr (.inr ⟨hc, hclr⟩))

/-! ## A common start -/

section CommonStart

variable {x y : Bytes} {b k : Nat}

/-- Two sequences agree on their first `k` blocks when each of these is the same block. -/
theorem take_eq_iff_blocks_eq (hb : 0 < b) :
    x.take (k * b) = y.take (k * b) ↔ ∀ j, j < k → block x b j = block y b j := by
  have hindex (j i : Nat) (hj : j < k) (hi : i < b) : j * b + i < k * b :=
    calc j * b + i < (j + 1) * b := by rw [Nat.succ_mul]; omega
      _ ≤ k * b := Nat.mul_le_mul_right b hj
  constructor
  · intro h j hj
    refine block_eq_iff.2 fun i hi => ?_
    rw [← List.getElem?_take_of_lt (hindex j i hj hi), h, List.getElem?_take_of_lt (hindex j i hj hi)]
  · intro h
    refine List.ext_getElem? fun n => ?_
    by_cases hn : n < k * b
    · have hbyte := block_eq_iff.1 (h (n / b) ((Nat.div_lt_iff_lt_mul hb).2 hn)) (n % b) (Nat.mod_lt n hb)
      rwa [Nat.div_add_mod', ← List.getElem?_take_of_lt hn, ← List.getElem?_take_of_lt (l := y) hn] at hbyte
    · rw [List.getElem?_take_eq_none (Nat.not_lt.1 hn), List.getElem?_take_eq_none (Nat.not_lt.1 hn)]

/-- The padding comes after the message. -/
theorem take_pad {n : Nat} (h : n ≤ x.length) : (pad x b).take n = x.take n :=
  List.take_append_of_le_length h

end CommonStart

/-- Settles O52: the padded messages have their first `k` blocks in common, and so have the ciphertexts. -/
theorem commonStartLeaks : Obligations.CommonStartLeaks := by
  intro E key iv pt pt' ct ct' k hb _ hlen hlen' hstart h h'
  have hpadded : (pad pt iv.length).take (k * iv.length) = (pad pt' iv.length).take (k * iv.length) := by
    rw [take_pad hlen, take_pad hlen', hstart]
  have hk {n : Nat} (hn : k * iv.length ≤ n) : k ≤ n / iv.length + 1 :=
    Nat.le_succ_of_le ((Nat.le_div_iff_mul_le hb).2 hn)
  exact (take_eq_iff_blocks_eq hb).2 <|
    ((cbc_chained hb h).mono (hk hlen)).cipherBlocks_eq ((cbc_chained hb h').mono (hk hlen'))
      ((take_eq_iff_blocks_eq hb).1 hpadded)

/-! ## The length of an operation -/

/-- `n` steps lead from `s` to `t`, and the chainer is busy before each of them. -/
def BusyUntil (E : Primitive) (n : Nat) (s t : State) : Prop :=
  runWith E n s = .next t ∧ ∀ m, m < n → ∃ u, runWith E m s = .next u ∧ u.phase.busy = true

theorem BusyUntil.of_step (hb : s.phase.busy = true) (hs : stepWith E s = .next t) : BusyUntil E 1 s t := by
  refine ⟨runWith_succ hs, fun m hm => ?_⟩
  obtain rfl := Nat.lt_one_iff.1 hm
  exact ⟨s, rfl, hb⟩

theorem BusyUntil.trans {m n : Nat} (h : BusyUntil E m s t) (h' : BusyUntil E n t u) : BusyUntil E (m + n) s u := by
  obtain ⟨hrun, hbusy⟩ := h
  obtain ⟨hrun', hbusy'⟩ := h'
  refine ⟨runWith_trans hrun hrun', fun k hk => ?_⟩
  rcases Nat.lt_or_ge k m with hlt | hge
  · exact hbusy k hlt
  · obtain ⟨j, rfl⟩ := Nat.exists_eq_add_of_le hge
    rw [runWith_add m j t hrun]
    exact hbusy' j (Nat.add_lt_add_iff_left.1 hk)

/-- The next block of an encryption that succeeds is answered with a cipher block (R160). -/
theorem cbcLoop_succ_ok {key padded prev out ct : Bytes} {b left n : Nat}
    (h : cbcLoop E key padded b (left + 1) n prev out = .ok ct) :
    ∃ mixed c, xorBytes (slice padded (n * b) b) prev = some mixed ∧ E key mixed = .ok c ∧ c.length = b ∧
      cbcLoop E key padded b left (n + 1) c (out ++ c) = .ok ct := by
  rw [cbcLoop] at h
  split at h
  next => cases h
  next mixed hx =>
    split at h
    next => cases h
    next c hE =>
      split at h
      next hc => exact ⟨mixed, c, hx, hE, hc, h⟩
      next => cases h

/-- In XOR the next step requests the answer to block IDX mixed with PREV (R152). -/
theorem stepWith_request {p mixed : Bytes} (hl : InLoop s) (hp : s.phase = .xor) (hprev : s.prev = some p)
    (hx : xorBytes (slice s.pbuf (s.idx * s.bsz.toNat) s.bsz.toNat) p = some mixed) (hn : NoResetAhead s.host) :
    ∃ later, AfterIdles s.host later ∧ stepWith E s = .next (sendRequest mixed { s with host := later }) := by
  obtain ⟨later, hlater, hs⟩ := stepWith_busy (E := E) (by rw [hp]; rfl) hn
  refine ⟨later, hlater, ?_⟩
  rw [hs, ownStep_xor (s := { s with host := later }) hp]
  exact uXor_next.2 ⟨p, _, hprev, memRead_eq_some.2 ⟨hl.block_le, rfl⟩, .inr ⟨mixed, hx, rfl⟩⟩

/-- With an answer due the next step takes it (R70). -/
theorem stepWith_answerDue {q : Request} (hp : s.phase = .cipher) (hr : s.req = some q) (hn : NoResetAhead s.host)
    (hd : AnswerDue s) : ∃ later, AfterIdles s.host later ∧ stepWith E s = .next (takeAnswer (E q.key q.block)
      (State.record { s with host := later, delays := s.delays.drop 1 } (.answer (E q.key q.block)))) := by
  obtain ⟨later, hlater, hs⟩ := stepWith_busy (E := E) (by rw [hp]; rfl) hn
  refine ⟨later, hlater, ?_⟩
  calc stepWith E s = primitiveStep E { s with host := later } := hs.trans (ownStep_cipher hp)
    _ = uRsp E { s with host := later, delays := s.delays.drop 1 } := primitiveStep_of_due hd
    _ = _ := uRsp_next.2 ⟨q, hr, rfl⟩

/-- A block takes two steps: its request, and the answer with U_RSP (R263). -/
theorem block_busyUntil {p mixed : Bytes} (hl : InLoop s) (hp : s.phase = .xor) (hprev : s.prev = some p)
    (hx : xorBytes (slice s.pbuf (s.idx * s.bsz.toNat) s.bsz.toNat) p = some mixed) (hn : NoResetAhead s.host)
    (hd : s.delays = []) :
    ∃ later, AfterIdles s.host later ∧
      BusyUntil E 2 s (takeAnswer (E s.key mixed) (s.answered mixed (E s.key mixed) later)) := by
  obtain ⟨moves, hm, hsend⟩ := stepWith_request (E := E) hl hp hprev hx hn
  obtain ⟨later, hlater, hanswer⟩ := stepWith_answerDue (E := E) (s := sendRequest mixed { s with host := moves })
    rfl rfl (hn.afterIdles hm) (.inl hd)
  refine ⟨later, hm.trans hlater, (BusyUntil.of_step (by rw [hp]; rfl) hsend).trans (.of_step rfl ?_)⟩
  rw [hanswer]
  simp [State.record, sendRequest, State.answered, State.progressed]

/-- From block IDX on, with `left` blocks to go, the rest of a successful operation takes `2 * left` steps. -/
theorem loop_busyUntil {left : Nat} {p ct : Bytes} (hleft : s.idx + left = s.nblk) (hk : WellKept s)
    (hp : s.phase = .xor) (hprev : s.prev = some p) (hn : NoResetAhead s.host) (hd : s.delays = [])
    (h : cbcLoop E s.key s.pbuf s.bsz.toNat left s.idx p s.out = .ok ct) :
    ∃ t, BusyUntil E (2 * left) s t ∧ t.phase = .ready ∧ t.out = ct := by
  induction left generalizing s p with
  | zero =>
    have := (hk.loop (.inl hp)).idx
    omega
  | succ left ih =>
    obtain ⟨mixed, c, hx, hE, hc, hrest⟩ := cbcLoop_succ_ok h
    obtain ⟨later, hl, hblock⟩ := block_busyUntil (E := E) (hk.loop (.inl hp)) hp hprev hx hn hd
    rw [hE] at hblock
    by_cases hlast : s.idx + 1 = s.nblk
    · rw [takeAnswer_answered_last hc hlast] at hblock
      obtain rfl : left = 0 := by omega
      exact ⟨_, hblock, endOperation_phase _ _, Answer.ok.inj hrest⟩
    · rw [takeAnswer_answered_more hc hlast] at hblock
      have hleft' : s.idx + 1 + left = s.nblk := by omega
      obtain ⟨t, htail, ht⟩ := ih (s := s.afterBlock mixed c later) (p := c) hleft'
        (runWith_wellKept hk hblock.1) rfl rfl (hn.afterIdles hl) (congrArg (List.drop 1) hd) hrest
      exact ⟨t, by rw [Nat.mul_succ, Nat.add_comm]; exact hblock.trans htail, ht⟩

/-- U_PAD loads the block count of R142. -/
theorem padded_nblk (hb : 0 < s.bsz.toNat) : s.padded.nblk = s.pbuf.length / s.bsz.toNat + 1 := by
  rw [State.padded, length_add_padLen _ hb, Nat.mul_div_cancel _ hb]

/-- In PAD the next step is U_PAD (R141). -/
theorem stepWith_pad (hk : WellKept s) (hp : s.phase = .pad) (hn : NoResetAhead s.host) :
    ∃ later, AfterIdles s.host later ∧ stepWith E s = .next (State.padded { s with host := later }) := by
  have hbsz : s.bsz ≠ 0 := fun hz => absurd (hk.unconf.2 hz) (by simp [hp])
  obtain ⟨later, hlater, hs⟩ := stepWith_busy (E := E) (by rw [hp]; rfl) hn
  refine ⟨later, hlater, ?_⟩
  rw [hs, ownStep_pad (s := { s with host := later }) hp]
  exact uPad_next.2 ⟨hbsz, rfl⟩

/-- From PAD a successful operation takes U_PAD and two steps for each block (R263). -/
theorem pad_busyUntil {ct : Bytes} (hk : WellKept s) (hp : s.phase = .pad) (hn : NoResetAhead s.host)
    (hd : s.delays = []) (h : cbc E s.key s.iv s.pbuf = .ok ct) :
    ∃ t, BusyUntil E (1 + 2 * (s.pbuf.length / s.bsz.toNat + 1)) s t ∧ t.phase = .ready ∧ t.out = ct := by
  have hbusy : s.phase.busy = true := by rw [hp]; rfl
  obtain ⟨_, _, _, _, hout⟩ := hk.padding hp
  obtain ⟨later, hl, hpad⟩ := stepWith_pad (E := E) hk hp hn
  rw [(cbc_eq_loop_padded hk.iv).1, ← hout] at h
  obtain ⟨t, hloop, ht⟩ := loop_busyUntil (s := State.padded { s with host := later }) (p := s.iv) (Nat.zero_add _)
    (stepWith_wellKept hk hpad) rfl rfl (hn.afterIdles hl) hd h
  rw [padded_nblk (s := { s with host := later }) (hk.bsz_pos hbusy)] at hloop
  exact ⟨t, (BusyUntil.of_step hbusy hpad).trans hloop, ht⟩

/-- ENC in READY starts an operation (R162). -/
theorem stepWith_enc (hp : s.phase = .ready) (hh : s.host = .send (encode .enc) :: rest) :
    stepWith E s = .next (startOperation (s.exchanged rest [.command (encode .enc)])) := by
  rw [stepWith_instr (by rw [hp]; rfl) hh rfl]
  exact execEnc_next.2 (.inr ⟨by simp [hp], rfl⟩)

/-- Settles O54: after the step that accepts ENC come U_PAD and two steps for each block, from busy states all. -/
theorem operationTakesTwoStepsPerBlock : Obligations.OperationTakesTwoStepsPerBlock := by
  intro E s rest ct hk hp hh hn hd h
  have henc := stepWith_enc (E := E) hp hh
  obtain ⟨t, ⟨hrun, hbusy⟩, ht⟩ := pad_busyUntil (stepWith_wellKept hk henc) rfl hn hd h
  have hcount : 2 + 2 * (s.msg.length / s.bsz.toNat + 1) = 1 + 2 * (s.msg.length / s.bsz.toNat + 1) + 1 := by omega
  rw [hcount]
  refine ⟨fun n hpos hlt => ?_, t, (runWith_succ henc).trans hrun, ht⟩
  obtain ⟨m, rfl⟩ := Nat.exists_eq_add_of_le' hpos
  rw [runWith_succ henc]
  exact hbusy m (Nat.lt_of_succ_lt_succ hlt)

/-! ## Every word is accepted and answered -/

theorem OffHostChannels.filter_isCommand {events : List Event} (h : OffHostChannels events) :
    events.filter Event.isCommand = [] :=
  List.filter_eq_nil_iff.2 fun e he => Bool.eq_false_iff.1 (h e he).1

theorem offHostChannels_trafficEvents (ps : List (Request × Answer)) : OffHostChannels (trafficEvents ps) := by
  intro e he
  obtain ⟨p, _, hp⟩ := List.mem_flatMap.1 he
  simp only [List.mem_cons, List.not_mem_nil, or_false] at hp
  rcases hp with rfl | rfl <;> exact ⟨rfl, rfl⟩

/-- A host that offers words only neither idles nor resets. -/
theorem noResetAhead_words (ws : List Word) : NoResetAhead (ws.map .send) := by
  cases ws <;> trivial

theorem AfterIdles.eq_of_words {ws : List Word} {later : List HostMove} (h : AfterIdles (ws.map .send) later) :
    later = ws.map .send := by
  obtain ⟨k, hk⟩ := h
  cases k with
  | zero => exact hk.symm
  | succ k => cases ws <;> cases hk

theorem endOperation_trace (a : Answer) (s : State) :
    (endOperation a s).trace = s.trace ++ [.response (endResponse a)] := by
  cases a <;> rfl

theorem endOperation_delays (a : Answer) (s : State) : (endOperation a s).delays = s.delays := by
  cases a <;> rfl

/-- Only ENC makes a quiescent chainer busy, and it then waits for U_PAD (R162, R168). -/
theorem acceptWord_pad_of_busy (hb : s.phase.busy = false) (h : acceptWord w s = .next s')
    (hb' : s'.phase.busy = true) : s'.phase = .pad := by
  rcases acceptWord_next h with ⟨_, rfl⟩ | ⟨i, _, hx⟩
  · exact absurd (hb.symm.trans hb') Bool.false_ne_true
  · rcases exec_answeredAtOnce hx with ⟨_, _, rfl⟩ | ha
    · rfl
    · exact absurd ((ha.busy hb).symm.trans hb') Bool.false_ne_true

/-- Between `s` and `t` the words `ws` have been accepted, in order and no others, and as many responses sent. -/
def WordsAnswered (ws : List Word) (s t : State) : Prop :=
  ∃ added, t.trace = s.trace ++ added ∧ added.filter Event.isCommand = ws.map .command ∧
    added.countP Event.isResponse = ws.length

theorem wordsAnswered_single {before : List Event} (ht : t.trace = s.trace ++ .command w :: (before ++ [.response r]))
    (hoff : OffHostChannels before) : WordsAnswered [w] s t := by
  refine ⟨_, ht, ?_, ?_⟩
  · rw [List.filter_cons_of_pos rfl, List.filter_append, hoff.filter_isCommand]; rfl
  · rw [List.countP_cons_of_neg Bool.false_ne_true, List.countP_append, hoff.countP_isResponse]; rfl

theorem WordsAnswered.trans {ws ws' : List Word} (h : WordsAnswered ws s t) (h' : WordsAnswered ws' t u) :
    WordsAnswered (ws ++ ws') s u := by
  obtain ⟨as, htrace, hcommands, hresponses⟩ := h
  obtain ⟨bs, htrace', hcommands', hresponses'⟩ := h'
  refine ⟨as ++ bs, by rw [htrace', htrace, List.append_assoc], ?_, ?_⟩
  · rw [List.filter_append, hcommands, hcommands', List.map_append]
  · rw [List.countP_append, hresponses, hresponses', List.length_append]

/-- From PAD the operation ends with its one response, and the host still holds its words (R70). -/
theorem operation_answered {ws : List Word} (hk : WellKept s) (hp : s.phase = .pad) (hh : s.host = ws.map .send)
    (hd : Delay.never ∉ s.delays) :
    ∃ t before r, Reaches E s t ∧ t.phase.busy = false ∧ t.host = ws.map .send ∧ Delay.never ∉ t.delays ∧
      t.trace = s.trace ++ (before ++ [.response r]) ∧ OffHostChannels before := by
  obtain ⟨later, hl, hend⟩ := pad_reached (E := E) hk hp (hh ▸ noResetAhead_words ws) hd
  rw [hh] at hl
  refine ⟨_, _, _, hend, by rw [endOperation_phase]; rfl, (endOperation_host _ _).trans hl.eq_of_words, ?_,
    (endOperation_trace _ _).trans (List.append_assoc ..), offHostChannels_trafficEvents _⟩
  rw [endOperation_delays]
  exact fun hmem => hd (List.mem_of_mem_drop hmem)

/-- The next word is accepted and answered: at once, or at the end of the operation it starts. -/
theorem word_answered {ws : List Word} (hk : WellKept s) (hb : s.phase.busy = false)
    (hh : s.host = .send w :: ws.map .send) (hd : Delay.never ∉ s.delays) :
    ∃ t, Reaches E s t ∧ t.phase.busy = false ∧ t.host = ws.map .send ∧ Delay.never ∉ t.delays ∧
      WordsAnswered [w] s t := by
  obtain ⟨t, hstep, hkt⟩ := hk.stepWith_next (E := E)
  have haccept := (stepWith_accept (E := E) hb hh).symm.trans hstep
  have hhost : t.host = ws.map .send := acceptWord_host haccept
  have hdelays : t.delays = s.delays := congrArg Prod.snd (acceptWord_otherAgents haccept)
  rw [← hdelays] at hd
  have htaken : (State.phase { s with host := ws.map .send }).busy = false := hb
  obtain ⟨answer, htrace, ⟨r, rfl, hquiet⟩ | ⟨rfl, hbusy⟩⟩ := acceptWord_trace htaken haccept
  · exact ⟨t, .of_step hstep, hquiet, hhost, hd, wordsAnswered_single (before := []) htrace offHostChannels_nil⟩
  · obtain ⟨u, before, r, hreach, hbu, hhu, hdu, htrace', hoff⟩ :=
      operation_answered (E := E) hkt (acceptWord_pad_of_busy htaken haccept hbusy) hhost hd
    refine ⟨u, (Reaches.of_step hstep).trans hreach, hbu, hhu, hdu, wordsAnswered_single (r := r) ?_ hoff⟩
    rw [htrace', htrace, List.append_assoc]
    rfl

/-- By induction on the words, each from the quiescent state that the one before it leaves. -/
theorem words_answered {ws : List Word} (hk : WellKept s) (hb : s.phase.busy = false) (hh : s.host = ws.map .send)
    (hd : Delay.never ∉ s.delays) :
    ∃ t, Reaches E s t ∧ t.phase.busy = false ∧ t.host = [] ∧ WordsAnswered ws s t := by
  induction ws generalizing s with
  | nil => exact ⟨s, ⟨0, rfl⟩, hb, hh, [], (List.append_nil _).symm, rfl, rfl⟩
  | cons w ws ih =>
    obtain ⟨t, hreach, hbt, hht, hdt, hfirst⟩ := word_answered (E := E) hk hb hh hd
    obtain ⟨u, hreach', hbu, hhu, hrest⟩ := ih (hreach.wellKept hk) hbt hht hdt
    exact ⟨u, hreach.trans hreach', hbu, hhu, hfirst.trans hrest⟩

/-- Settles O55: `words_answered`, with the number of its steps and the events it records. -/
theorem everyWordIsAcceptedAndAnswered : Obligations.EveryWordIsAcceptedAndAnswered := by
  intro E s ws hk hb hh hd
  obtain ⟨t, ⟨n, hrun⟩, hbt, hht, added, htrace, hcommands, hresponses⟩ := words_answered (E := E) hk hb hh hd
  exact ⟨n, t, added, hrun, hbt, hht, htrace, hcommands, hresponses⟩

end Sys2Proof.Machine
